-- ==== Sys2Proof/Word.lean ====
section
/-! DEFINITION. The word types of the block (00 R8, R9; 10 R20 to R22, R31; 20 R60). -/

namespace Sys2Proof

/-- A datapath word, the spec's `u64` (00 R9). -/
abbrev Word := BitVec 64

/-- A table byte, an input byte or a digest byte (00 R10). -/
abbrev Byte := BitVec 8

/-- A host register or a command word, 32 bits (20 R60, 30 R90). -/
abbrev Reg := BitVec 32

/-- The number of a state slot, 0..31 (10 R20). -/
abbrev Slot := Fin 32

end Sys2Proof
end

