-- ==== Sys2Proof/Config.lean ====
section
/-! DEFINITION. What one implementation fixes (00 R7): the constants the spec states, the OPEN parameters, and the
values the spec leaves to be drawn. An OPEN parameter or a drawn value is an opaque constant with no body, so no proof
can see what it is. -/

namespace Sys2Proof

/-! ### Fixed values (00 R7) -/

/-- `SEED`, the start value of `AS` (00 R7, 40 R111). UNVERIFIED against the upstream code (93 section 3, log 21). -/
def Config.seed : Word := 0xFAFAECECFAFAECEC#64

/-- `MAX_MAPBITS`, fixed at 32 for revision 1 (00 R7, 93 U2, log 20). -/
def Config.maxMapBits : Nat := 32

/-- `ID_VALUE`, ASCII "LXR" and revision 1 (10 R40). -/
def Config.idValue : Reg := 0x4C585201#32

/-! ### The shape of the full diffusion network (42 R152 to R154)

`FULLMIX` is a fixed sequence of assignments. Its type below admits the sequences that rules R152 to R154 allow, and no
others: each block has a type whose sources are the ones R153 lists for it, so a value outside the rules cannot be built.
Lookup keys take any working value and `v` (R152), but in the `S1` blocks, whose keys R153 lists (log 11). -/

/-- A list with at least one entry. -/
structure Chain (α : Type) where
  first : α
  rest : List α
deriving DecidableEq, Repr, Inhabited

/-- All entries, in order. -/
def Chain.toList {α : Type} (c : Chain α) : List α := c.first :: c.rest

/-- The direction of a logical shift (00 R9). -/
inductive Dir where
  | left
  | right
deriving DecidableEq, Repr, Inhabited

/-- A constant shift by 0..63 (00 R9); an amount of 0 is "unshifted". -/
structure Shift where
  dir : Dir
  amount : Fin 64
deriving DecidableEq, Repr, Inhabited

/-- A source, logically shifted by a constant (42 R152). -/
structure Shifted (σ : Type) where
  src : σ
  shift : Shift
deriving DecidableEq, Repr, Inhabited

/-- A term of an assignment's right-hand side (42 R152): a shifted source, or `B(key) << c` with `key` an XOR of
shifted sources. -/
inductive Term (σ κ : Type) where
  | plain (x : Shifted σ)
  | lookup (key : Chain (Shifted κ)) (amount : Fin 64)
deriving DecidableEq, Repr, Inhabited

/-- A right-hand side: an XOR of terms (42 R152). -/
abbrev Rhs (σ κ : Type) := Chain (Term σ κ)

/-- A name of the network's working values, and the input `v` (42 R152). -/
inductive Src where
  | s1
  | a
  | s2
  | h
  | v
deriving DecidableEq, Repr, Inhabited

/-- Sources of the `S1` and `AS` blocks' shifted terms, and of the slot update's `X` (42 R153, R154). -/
inductive MixSrc where
  | s1
  | a
deriving DecidableEq, Repr, Inhabited

/-- Sources of the `S1` blocks' lookup keys: combinations of `a`, `s1`, `v` (42 R153). -/
inductive MixKey where
  | s1
  | a
  | v
deriving DecidableEq, Repr, Inhabited

/-- Sources of the `S2` block's shifted terms (42 R153). -/
inductive S2Src where
  | s1
  | a
  | s2
deriving DecidableEq, Repr, Inhabited

/-- Sources of block `F2`'s shifted terms: `s1`, `s2`, the slot's word, and perhaps its own old `a` (42 R153). -/
inductive F2Src where
  | a
  | s1
  | s2
  | h
deriving DecidableEq, Repr, Inhabited

/-- The full diffusion network (42 R153, R154), block by block. `slotPos` is where among the other assignments the one
assignment of the state slot stands, which the spec leaves to the parameter. -/
structure FullMix where
  s1a : Chain (Rhs MixSrc MixKey)
  asa : Chain (Rhs MixSrc Src)
  s1b : Chain (Rhs MixSrc MixKey)
  asb : Chain (Rhs MixSrc Src)
  s2 : Chain (Rhs S2Src Src)
  /-- `G` of `F1`: `s1 <- G(s2) ^ h ^ v`. -/
  f1 : Chain Shift
  f2 : Rhs F2Src Src
  /-- `X` of the slot update `h <- X ^ (h shifted terms)`. -/
  slotX : Chain (Shifted MixSrc)
  /-- The shifts of the old `h` in the slot update. -/
  slotSelf : Chain Shift
  slotPos : Nat
deriving DecidableEq, Repr, Inhabited

/-- The OPEN parameters of the datapath (00 R7): the fast step's self-shifts (41 R131, R132) and the full diffusion
network (42 R155). -/
structure Params where
  fastAsL : Fin 64
  fastAsR : Fin 64
  fastS1L : Fin 64
  fastS1R : Fin 64
  fullMix : FullMix
deriving DecidableEq, Repr, Inhabited

/-! ### OPEN parameters and drawn values -/

/-- The OPEN datapath parameters of this implementation (00 R7, log 11). No proof can see them. -/
opaque Config.params : Params

/-- `BASE` divided by `0x80` (20 R61: `BASE` is a multiple of `0x80`; log 16). -/
opaque Config.basePage : Nat

/-- `BASE`, the platform address of the register window (20 R61). -/
def Config.base : Nat := 0x80 * Config.basePage

/-- FREE VALUE. The byte that table read number `n`, at index `i`, returns where the bound table has no such index
(20 R68, 93 U3, log 8). -/
opaque Config.shortTableByte : Nat → BitVec 32 → Byte

/-- FREE VALUE. Which of the tables that stood at the port since the last accepted `INIT` answers table read number
`n`, where the table changed under the digest (20 R69, 93 U4, log 9). -/
opaque Config.raceVersion : Nat → Nat

end Sys2Proof
end

