-- ==== Sys2Proof/Syntax.lean ====
section
/-! DEFINITION. The syntax the block and its host speak: the six commands (30 R94), the host's bus accesses (20 R60 to
R64), and the source lines of host programs (30 R98 to R100). -/

namespace Sys2Proof

/-- The commands, one constructor per row of the opcode map (30 R94). Operands are the fields of rule R93, at their own
widths, so every term stands for a command word. -/
inductive Instr where
  /-- `NOP`, format Z (40 R110). -/
  | nop
  /-- `INIT K`, format K, `K = w[5:0]` (40 R111). -/
  | init (k : BitVec 6)
  /-- `FAST V`, format V, `V = w[7:0]` (41 R134). -/
  | fast (v : Byte)
  /-- `PASS2`, format Z (40 R112). -/
  | pass2
  /-- `FULL V`, format V, `V = w[7:0]` (42 R156). -/
  | full (v : Byte)
  /-- `FINAL`, format Z (43 R170). -/
  | final
deriving DecidableEq, Repr

/-- Which commands read the substitution table (70 R219). -/
def Instr.readsTable : Instr → Bool
  | .nop => false
  | .init _ => false
  | .fast _ => true
  | .pass2 => false
  | .full _ => true
  | .final => true

/-! ### Bus accesses -/

/-- The width of a host access; only `word` is legal (20 R64). -/
inductive Width where
  | byte
  | half
  | word
deriving DecidableEq, Repr

/-- What a host access does. A write carries its data on the 32-bit bus. -/
inductive AccessOp where
  | read
  | write (v : Reg)
deriving DecidableEq, Repr

/-- A host transaction that the platform's decoder has selected the block for (20 R60, R61). -/
structure Access where
  addr : Nat
  width : Width
  op : AccessOp
deriving DecidableEq, Repr

/-- The registers of the window (10 section 3). -/
inductive Register where
  | id
  | status
  | cmd
  | count
  | len1
  | dbgSel
  | dbgLo
  | dbgHi
  | digest (n : Fin 8)
  | reserved
deriving DecidableEq, Repr

/-! ### Source lines -/

/-- An assembler line (30 R98). Operands are numbers as written; `Asm.wellFormed` is the assembler's range check. -/
inductive Asm where
  | nop
  | init (k : Nat)
  | fast (v : Nat)
  | pass2
  | full (v : Nat)
  | final
  /-- `.word w`: a raw word, which may be illegal. -/
  | word (w : Nat)
deriving DecidableEq, Repr

/-- A line of a host program: a command, a pseudo-instruction (30 R99) or a host operation (30 R100). -/
inductive HostLine where
  | cmd (c : Asm)
  /-- `ABSORB1 bytes` -/
  | absorb1 (bytes : List Byte)
  /-- `ABSORB2 bytes` -/
  | absorb2 (bytes : List Byte)
  /-- `DIGEST k, bytes` -/
  | digest (k : Nat) (bytes : List Byte)
  /-- `WR off, v` -/
  | wr (off : Nat) (v : Nat)
  /-- `RD off -> name`; `late` says that a command in flight completes before the read is served, which is timing for a
  read of `STATUS` (70 R214) and no difference for a held read. -/
  | rd (off : Nat) (late : Bool)
  /-- `POLL`; `busyReads` is how many of its `STATUS` reads come before the completion, which is timing (70 R214). -/
  | poll (busyReads : Nat)
  /-- `BIND T`, with `T` given by its length and its bytes that are not 0. -/
  | bind (size : Nat) (cells : List (Nat × Byte))
deriving DecidableEq, Repr

end Sys2Proof
end

