-- ==== Sys2Proof/WellFormed.lean ====
section
/-! DEFINITION. What is well formed: command words (30 R92, R94, R96), host accesses (20 R64) and source lines (30 R98 to
R100). A term of `Instr` is well formed by its type: its operands have their fields' widths. -/

namespace Sys2Proof

/-- A row of the opcode map (30 R94). -/
structure OpcodeRow where
  pattern : Reg
  mask : Reg
deriving DecidableEq, Repr

/-- The opcode map, in the order of 30 R94: NOP, INIT, FAST, PASS2, FULL, FINAL. -/
def opcodeMap : List OpcodeRow :=
  [ ⟨0x00000000#32, 0xFFFFFFFF#32⟩
  , ⟨0x10000000#32, 0xFFFFFFC0#32⟩
  , ⟨0x20000000#32, 0xFFFFFF00#32⟩
  , ⟨0x30000000#32, 0xFFFFFFFF#32⟩
  , ⟨0x40000000#32, 0xFFFFFF00#32⟩
  , ⟨0x50000000#32, 0xFFFFFFFF#32⟩ ]

/-- A word selects a row exactly when `(w & mask) = match` (30 R94). -/
def OpcodeRow.selects (r : OpcodeRow) (w : Reg) : Bool := w &&& r.mask == r.pattern

/-- The row of the opcode map that a command belongs to (30 R94). -/
def Instr.row : Instr → OpcodeRow
  | .nop => ⟨0x00000000#32, 0xFFFFFFFF#32⟩
  | .init _ => ⟨0x10000000#32, 0xFFFFFFC0#32⟩
  | .fast _ => ⟨0x20000000#32, 0xFFFFFF00#32⟩
  | .pass2 => ⟨0x30000000#32, 0xFFFFFFFF#32⟩
  | .full _ => ⟨0x40000000#32, 0xFFFFFF00#32⟩
  | .final => ⟨0x50000000#32, 0xFFFFFFFF#32⟩

/-- A legal command word: some row selects it (30 R94, R96). -/
def commandWordWellFormed (w : Reg) : Bool := opcodeMap.any (fun r => r.selects w)

/-- The offset the block decodes: address bits 6:0 only (20 R61). -/
def windowOffset (addr : Nat) : BitVec 7 := BitVec.ofNat 7 addr

/-- The legal host access: 32 bits wide, at an offset that is a multiple of 4 (20 R64). -/
def Access.wellFormed (a : Access) : Bool :=
  a.width == .word && (windowOffset a.addr).extractLsb' 0 2 == 0#2

/-- The assembler's operand ranges (30 R98). The rule refuses the line `INIT 0`, which program P3 of file 95 writes (row 2);
that the rule is followed is log 29, and the word is reached as `.word 0x10000000`. -/
def Asm.wellFormed : Asm → Bool
  | .nop => true
  | .init k => decide (1 ≤ k) && decide (k ≤ 63)
  | .fast v => decide (v ≤ 255)
  | .pass2 => true
  | .full v => decide (v ≤ 255)
  | .final => true
  | .word w => decide (w < 2 ^ 32)

/-- An offset of the register window: a multiple of 4 in `0x00..0x7C` (20 R62, R63). -/
def offsetWellFormed (off : Nat) : Bool := off % 4 == 0 && decide (off ≤ 0x7C)

/-- A host program's line is well formed (30 R98 to R100). -/
def HostLine.wellFormed : HostLine → Bool
  | .cmd c => c.wellFormed
  | .absorb1 _ => true
  | .absorb2 _ => true
  | .digest k _ => (Asm.init k).wellFormed
  | .wr off v => offsetWellFormed off && decide (v < 2 ^ 32)
  | .rd off _ => offsetWellFormed off
  | .poll _ => true
  | .bind _ _ => true

end Sys2Proof
end

