-- ==== Sys2Proof/Decode.lean ====
section
/-! DEFINITION. The command decoder, total on all 2^32 words (30 R95), the encoder beside it (30 R92, R94), and the
assembler of one line (30 R98). -/

namespace Sys2Proof

/-- Why a word is no command (30 R96). Either reason raises `ILL`. -/
inductive Reject where
  /-- `OP` is one of `0x6..0xF`. -/
  | reservedOpcode
  /-- `OP` is defined and a must-be-zero bit of its format is set. -/
  | mustBeZero
deriving DecidableEq, Repr

/-- `OP = w[31:28]` (30 R91). -/
def opField (w : Reg) : BitVec 4 := w.extractLsb' 28 4

/-- Decode a command word (30 R95). It depends on the word alone (30 R97). -/
def decode (w : Reg) : Except Reject Instr :=
  match (opField w).toNat with
  | 0 => if w.extractLsb' 0 28 = 0 then .ok .nop else .error .mustBeZero
  | 1 => if w.extractLsb' 6 22 = 0 then .ok (.init (w.extractLsb' 0 6)) else .error .mustBeZero
  | 2 => if w.extractLsb' 8 20 = 0 then .ok (.fast (w.extractLsb' 0 8)) else .error .mustBeZero
  | 3 => if w.extractLsb' 0 28 = 0 then .ok .pass2 else .error .mustBeZero
  | 4 => if w.extractLsb' 8 20 = 0 then .ok (.full (w.extractLsb' 0 8)) else .error .mustBeZero
  | 5 => if w.extractLsb' 0 28 = 0 then .ok .final else .error .mustBeZero
  | _ => .error .reservedOpcode

/-- Encode a command: `OP`, zeros, and the operand in `DATA` (30 R92, R94). -/
def encode : Instr → Reg
  | .nop => 0x0#4 ++ 0#28
  | .init k => 0x1#4 ++ 0#22 ++ k
  | .fast v => 0x2#4 ++ 0#20 ++ v
  | .pass2 => 0x3#4 ++ 0#28
  | .full v => 0x4#4 ++ 0#20 ++ v
  | .final => 0x5#4 ++ 0#28

/-- What the decoder reads from a word given as a number (bit 0 the least significant bit; bits from `nbits` up are 0). -/
def decodeTableWord (nbits w : Nat) : Option Instr :=
  match decode (BitVec.ofNat 32 (w % 2 ^ nbits)) with
  | .ok i => some i
  | .error _ => none

/-- Is the word an `INIT` command, whatever its `K`? -/
def isInitWord (w : Reg) : Bool :=
  match decode w with
  | .ok (.init _) => true
  | _ => false

/-- Does executing the word read the table, in a phase that allows it (70 R219)? -/
def readsTableWord (w : Reg) : Bool :=
  match decode w with
  | .ok i => i.readsTable
  | .error _ => false

/-- Assemble one line (30 R98). An operand out of its field's range is an error, never truncated. -/
def Asm.assemble (c : Asm) : Option Reg :=
  if c.wellFormed then
    match c with
    | .nop => some (encode .nop)
    | .init k => some (encode (.init (BitVec.ofNat 6 k)))
    | .fast v => some (encode (.fast (BitVec.ofNat 8 v)))
    | .pass2 => some (encode .pass2)
    | .full v => some (encode (.full (BitVec.ofNat 8 v)))
    | .final => some (encode .final)
    | .word w => some (BitVec.ofNat 32 w)
  else none

end Sys2Proof
end

