-- ==== Sys2Proof/Machine/State.lean ====
section
/-! DEFINITION. The machine's state as plain data, holding everything the spec gives the block (10 R20 to R34, R49), the
table at its port (20 R66, R67), and the host's side of the bus. -/

namespace Sys2Proof.Machine

/-- `PHASE` (10 R25). -/
inductive Phase where
  | idle
  | pass1
  | pass2
  | done
deriving DecidableEq, Repr

/-- The four error conditions that have a `STATUS` bit (60 R191). -/
inductive ErrorCode where
  /-- Illegal command word. -/
  | ill
  /-- Command not legal in the current phase. -/
  | seq
  /-- `INIT` operand out of range. -/
  | cfg
  /-- `FINAL` with `CNT != LEN1`. -/
  | len
deriving DecidableEq, Repr

/-- The sticky error bits (10 R33). -/
structure Errors where
  ill : Bool
  seq : Bool
  cfg : Bool
  len : Bool
deriving DecidableEq, Repr

/-- Memory at the table port (20 R66, R67): `size` bytes, indices `0..size-1`. The cells are listed by strictly rising
index, each index is below `size`, and no listed byte is 0; an index below `size` that is not listed holds 0 (log 7). -/
structure Memory where
  size : Nat
  cells : List Host.Cell
deriving DecidableEq, Repr

/-- The bus response of a transaction (20 R60). -/
inductive Response where
  | okay
  | error
deriving DecidableEq, Repr

/-- A completed transaction's answer; a read also returns data (20 R60, R64). -/
structure Reply where
  response : Response
  data : Option Reg
deriving DecidableEq, Repr

/-- What happens next at the block's boundary, in the order in which it takes effect (log 2). -/
inductive Event where
  /-- A host transaction reaches the block (20 R60). -/
  | access (a : Access)
  /-- The host's `POLL`: read `STATUS` until `BUSY` is 0, `busyReads` of the reads coming before completion (30 R100). -/
  | poll (busyReads : Nat)
  /-- The command in flight reaches its completion (10 R32). -/
  | complete
  /-- The reset input is asserted (70 R210). -/
  | reset
  /-- The platform binds a table to the port (30 R100). -/
  | bindTable (size : Nat) (cells : List Host.Cell)
  /-- A write into the table memory becomes visible at the port (20 R69, R75). -/
  | writeTable (index : Nat) (value : Byte)
deriving DecidableEq, Repr

/-- Why a step stops the machine. There is no constructor: the spec gives the block no way to stop. It has no trap
(60 R190), an errored command sets a bit and the block goes on (60 R193), a malformed access gets an ERROR response
and the block goes on (20 R64), and every table read is assumed answered (20 R70, log 3). Nobody raises a fault
(log 23). -/
inductive Fault where
deriving DecidableEq, Repr

/-- Why a step refuses an instruction. -/
inductive Refusal where
  /-- Raised by an arm of `exec` whose instruction has no meaning yet; safe. No arm of this model raises it. -/
  | notModelled (mnemonic : String)
deriving DecidableEq, Repr

/-- The machine. -/
structure State where
  /-- `HS[0..31]` (10 R20). -/
  hs : Vector Word 32
  /-- The accumulator `AS` (10 R21). -/
  acc : Word
  /-- `S1` (10 R22). -/
  s1 : Word
  /-- `S2` (10 R22). -/
  s2 : Word
  /-- `S3` (10 R22). -/
  s3 : Word
  /-- `PHASE` (10 R25). -/
  phase : Phase
  /-- `MAPBITS` (10 R26). -/
  mapBits : BitVec 6
  /-- `CNT` (10 R27). -/
  cnt : Reg
  /-- `LEN1` (10 R28). -/
  len1 : Reg
  /-- `DIGEST[0..31]` (10 R31). -/
  digest : Vector Byte 32
  /-- `BUSY` (10 R32). -/
  busy : Bool
  /-- `PEND` (10 R32). -/
  pend : Reg
  /-- `ERR_ILL`, `ERR_SEQ`, `ERR_CFG`, `ERR_LEN` (10 R33). -/
  errors : Errors
  /-- `DBG_SEL` (10 R34). -/
  dbgSel : BitVec 6
  /-- The table at the port now (20 R67). -/
  table : Memory
  /-- The tables that stood at the port since the last accepted `INIT` and were changed under it, newest first
  (20 R69, log 9). -/
  past : List Memory
  /-- How many table reads the block has made; it numbers the free values (log 5). -/
  reads : Nat
  /-- The value of `reads` when the last `INIT` was accepted (log 10). -/
  readsAtInit : Nat
  /-- What happens next at the boundary (log 2). -/
  events : List Event
  /-- The bus answers given so far, newest first (log 4). -/
  replies : List Reply
deriving DecidableEq, Repr

/-- The machine right after reset (10 R49, 70 R211): no table bound yet (log 6) and nothing asked of the block (log 1). -/
def State.reset : State where
  hs := Vector.replicate 32 0
  acc := Config.seed
  s1 := 0
  s2 := 0
  s3 := 0
  phase := .idle
  mapBits := 0
  cnt := 0
  len1 := 0
  digest := Vector.replicate 32 0
  busy := false
  pend := 0
  errors := ⟨false, false, false, false⟩
  dbgSel := 0
  table := ⟨0, []⟩
  past := []
  reads := 0
  readsAtInit := 0
  events := []
  replies := []

/-- Who moves in the next step: the boundary has moved already, or the sequencer completes the command in flight. -/
inductive Turn where
  | moved (t : State)
  | complete (t : State)
deriving DecidableEq, Repr

end Sys2Proof.Machine
end

