-- ==== Sys2Proof/Machine/Flags.lean ====
section
/-! DEFINITION. The status fields: the phase's code (10 R25), the error bits (10 R33, R41), and the `STATUS` word (10 R41).
The block has no condition codes (10 R50). -/

namespace Sys2Proof.Machine

/-- The encoding of `PHASE` (10 R25). -/
def Phase.code : Phase → BitVec 2
  | .idle => 0
  | .pass1 => 1
  | .pass2 => 2
  | .done => 3

/-- One error bit (10 R33). -/
def Errors.get (e : Errors) : ErrorCode → Bool
  | .ill => e.ill
  | .seq => e.seq
  | .cfg => e.cfg
  | .len => e.len

/-- Set one error bit; the others stay (10 R33, 60 R193). -/
def Errors.set (e : Errors) : ErrorCode → Errors
  | .ill => { e with ill := true }
  | .seq => { e with seq := true }
  | .cfg => { e with cfg := true }
  | .len => { e with len := true }

/-- The bit position of an error bit in `STATUS` (10 R41, 60 R191). -/
def ErrorCode.position : ErrorCode → Nat
  | .ill => 16
  | .seq => 17
  | .cfg => 18
  | .len => 19

/-- A write of `w` to `STATUS` clears the error bits that `w` holds a 1 for (10 R41). -/
def Errors.clear (e : Errors) (w : Reg) : Errors where
  ill := e.ill && !w.getLsbD ErrorCode.ill.position
  seq := e.seq && !w.getLsbD ErrorCode.seq.position
  cfg := e.cfg && !w.getLsbD ErrorCode.cfg.position
  len := e.len && !w.getLsbD ErrorCode.len.position

/-- What a read of `STATUS` returns (10 R41), fields from bit 31 down. -/
def statusWord (s : State) : Reg :=
  0#3 ++ s.cnt.extractLsb' 0 5 ++ 0#4
    ++ BitVec.ofBool s.errors.len ++ BitVec.ofBool s.errors.cfg
    ++ BitVec.ofBool s.errors.seq ++ BitVec.ofBool s.errors.ill
    ++ 0#6 ++ s.mapBits ++ 0#1 ++ s.phase.code ++ BitVec.ofBool s.busy

end Sys2Proof.Machine
end

