-- ==== Sys2Proof/Machine/Memory.lean ====
section
/-! DEFINITION. The memory at the table port: reading, writing and binding it, and its canonical form (20 R66 to R69). -/

namespace Sys2Proof.Machine

/-- What an index below the size reads as when it is not listed: the one definition of it (log 7). -/
def Memory.unlisted : Byte := 0

/-- The byte a list of cells gives an index. -/
def cellAt : List Host.Cell → Nat → Byte
  | [], _ => Memory.unlisted
  | c :: cs, i => if c.1 = i then c.2 else cellAt cs i

/-- The byte at an index, or none beyond the table's end (20 R68). -/
def Memory.read? (m : Memory) (i : Nat) : Option Byte :=
  if i < m.size then some (cellAt m.cells i) else none

/-- Put a byte into a list of cells, keeping it sorted and listing no byte equal to the unlisted one. -/
def putCell : List Host.Cell → Nat → Byte → List Host.Cell
  | [], i, v => if v = Memory.unlisted then [] else [(i, v)]
  | c :: cs, i, v =>
    if i < c.1 then (if v = Memory.unlisted then c :: cs else (i, v) :: c :: cs)
    else if i = c.1 then (if v = Memory.unlisted then cs else (i, v) :: cs)
    else c :: putCell cs i v

/-- Write one byte of the table memory; an index beyond its end is no byte of it. -/
def Memory.write (m : Memory) (i : Nat) (v : Byte) : Memory :=
  if i < m.size then { m with cells := putCell m.cells i v } else m

/-- The table of `size` bytes with the given bytes. The port's index has 32 bits, so it reaches 2^32 of them (20 R66). -/
def Memory.ofCells (size : Nat) (cells : List Host.Cell) : Memory :=
  cells.foldl (fun m c => m.write c.1 c.2) ⟨min size (2 ^ 32), []⟩

/-- The cells' canonical form: indices strictly rising from `lo`, below `size`, and no byte equal to the unlisted one. -/
def cellsWf (size : Nat) : Nat → List Host.Cell → Bool
  | _, [] => true
  | lo, c :: cs => decide (lo ≤ c.1) && decide (c.1 < size) && c.2 != Memory.unlisted && cellsWf size (c.1 + 1) cs

/-- The memory is in its one canonical form, and within the port's reach. -/
def Memory.wf (m : Memory) : Bool := decide (m.size ≤ 2 ^ 32) && cellsWf m.size 0 m.cells

end Sys2Proof.Machine
end

