-- ==== Sys2Proof/Machine/Operands.lean ====
section
/-! DEFINITION. Every operand form of the spec: shifts, widening and truncation (00 R9, R10), the mask and the table index
(00 R12, 10 R26, 20 R66), the slot index (10 R27), the injection term (41 R131), and the operand range of `INIT`. -/

namespace Sys2Proof.Machine

/-- `x << n`, logical, `n` in 0..63 (00 R9). -/
def shl (x : Word) (n : Fin 64) : Word := x <<< n.val

/-- `x >> n`, logical, `n` in 0..63 (00 R9). -/
def shr (x : Word) (n : Fin 64) : Word := x >>> n.val

/-- `zext_64(b)` (00 R10). -/
def zext64 (b : Byte) : Word := b.setWidth 64

/-- `MASK = 2^MAPBITS - 1` for a given exponent (10 R26). -/
def maskOf (k : BitVec 6) : Word := (1#64 <<< k.toNat) - 1#64

/-- The table index of an operand: `x & MASK`, 32 bits wide (00 R12, 20 R66). -/
def tableIndex (k : BitVec 6) (x : Word) : BitVec 32 := (x &&& maskOf k).setWidth 32

/-- `idx = CNT[4:0]` (10 R27). -/
def slotOf (cnt : Reg) : Slot := (cnt.extractLsb' 0 5).toFin

/-- `INJ(v, bb)`, the injected part of the fast step's accumulator update (41 R131). -/
def injection (v bb : Word) : Word :=
  (v <<< 20) ^^^ (v <<< 16) ^^^ v ^^^ (bb <<< 20) ^^^ (bb <<< 12) ^^^ (bb <<< 4)

/-- `1 <= K <= MAX_MAPBITS` (40 R111). -/
def mapBitsLegal (k : BitVec 6) : Bool := decide (1 ≤ k.toNat) && decide (k.toNat ≤ Config.maxMapBits)

end Sys2Proof.Machine
end

