-- ==== Sys2Proof/Machine/Network.lean ====
section
/-! DEFINITION. Running a full diffusion network (42 R150 to R154): its blocks are lowered to one list of assignments, which
run in order on the working values. A lookup is given as a function of the read's number and the key, because a read of
a short or changing table is a fresh draw (20 R68, R69). -/

namespace Sys2Proof

open Machine

/-- The working values of one call, and its input word (42 R151). -/
structure Work where
  s1 : Word
  a : Word
  s2 : Word
  h : Word
  v : Word
deriving DecidableEq, Repr

/-- The value of a source. -/
def Work.get (w : Work) : Src → Word
  | .s1 => w.s1
  | .a => w.a
  | .s2 => w.s2
  | .h => w.h
  | .v => w.v

/-- What an assignment writes (42 R152): one of the four working values. -/
inductive Target where
  | s1
  | a
  | s2
  | h
deriving DecidableEq, Repr

/-- Write a working value. -/
def Work.put (w : Work) (t : Target) (x : Word) : Work :=
  match t with
  | .s1 => { w with s1 := x }
  | .a => { w with a := x }
  | .s2 => { w with s2 := x }
  | .h => { w with h := x }

/-- One assignment of the network: a working value gets an XOR of terms (42 R152). -/
structure Assignment where
  target : Target
  terms : List (Term Src Src)
deriving DecidableEq, Repr

/-- A constant shift of a word (00 R9). -/
def Shift.apply (c : Shift) (x : Word) : Word :=
  match c.dir with
  | .left => shl x c.amount
  | .right => shr x c.amount

/-- The value of a shifted source. -/
def Shifted.eval (x : Shifted Src) (w : Work) : Word := x.shift.apply (w.get x.src)

/-- The XOR of shifted sources: a lookup's key (42 R152). -/
def keyOf (w : Work) : List (Shifted Src) → Word
  | [] => 0
  | x :: xs => x.eval w ^^^ keyOf w xs

/-- A term's value and the number of the next table read: `B(key) << c` makes one read (42 R152). -/
def Term.eval (b : Nat → Word → Byte) (w : Work) (n : Nat) : Term Src Src → Word × Nat
  | .plain x => (x.eval w, n)
  | .lookup key c => (shl (zext64 (b n (keyOf w key.toList))) c, n + 1)

/-- The XOR of the terms, lookups made from the first term on (log 12). -/
def evalTerms (b : Nat → Word → Byte) (w : Work) : List (Term Src Src) → Nat → Word × Nat
  | [], n => (0, n)
  | t :: ts, n =>
    let x := t.eval b w n
    let y := evalTerms b w ts x.2
    (x.1 ^^^ y.1, y.2)

/-- Run the assignments in order, each seeing the writes of the ones before it (00 R11, 42 R152). -/
def runAssignments (b : Nat → Word → Byte) : List Assignment → Work → Nat → Work × Nat
  | [], w, n => (w, n)
  | x :: xs, w, n =>
    let r := evalTerms b w x.terms n
    runAssignments b xs (w.put x.target r.1) r.2

/-! ### Lowering the blocks -/

/-- The general name of a source. -/
def MixSrc.toSrc : MixSrc → Src
  | .s1 => .s1
  | .a => .a

/-- The general name of a source. -/
def MixKey.toSrc : MixKey → Src
  | .s1 => .s1
  | .a => .a
  | .v => .v

/-- The general name of a source. -/
def S2Src.toSrc : S2Src → Src
  | .s1 => .s1
  | .a => .a
  | .s2 => .s2

/-- The general name of a source. -/
def F2Src.toSrc : F2Src → Src
  | .a => .a
  | .s1 => .s1
  | .s2 => .s2
  | .h => .h

/-- Rename a shifted source. -/
def Shifted.rename {σ : Type} (f : σ → Src) (x : Shifted σ) : Shifted Src := ⟨f x.src, x.shift⟩

/-- Rename a term's sources. -/
def Term.rename {σ κ : Type} (f : σ → Src) (g : κ → Src) : Term σ κ → Term Src Src
  | .plain x => .plain (x.rename f)
  | .lookup key c => .lookup ⟨key.first.rename g, key.rest.map (fun x => x.rename g)⟩ c

/-- A block: consecutive assignments of one working value (42 R153). -/
def blockOf {σ κ : Type} (t : Target) (f : σ → Src) (g : κ → Src) (block : Chain (Rhs σ κ)) : List Assignment :=
  block.toList.map (fun rhs => ⟨t, rhs.toList.map (fun x => x.rename f g)⟩)

/-- A source taken unshifted. -/
def unshifted (x : Src) : Shifted Src := ⟨x, ⟨.left, 0⟩⟩

/-- Block `F1`: `s1 <- G(s2) ^ h ^ v` (42 R153). -/
def FullMix.f1Assignment (m : FullMix) : Assignment :=
  ⟨.s1, m.f1.toList.map (fun c => .plain ⟨.s2, c⟩) ++ [.plain (unshifted .h), .plain (unshifted .v)]⟩

/-- The one assignment of the state slot: `h <- X ^ (h shifted terms)` (42 R154). -/
def FullMix.slotAssignment (m : FullMix) : Assignment :=
  ⟨.h, m.slotX.toList.map (fun x => .plain (x.rename MixSrc.toSrc)) ++ m.slotSelf.toList.map (fun c => .plain ⟨.h, c⟩)⟩

/-- The blocks in the order of 42 R153, without the slot's assignment. -/
def FullMix.blocks (m : FullMix) : List Assignment :=
  blockOf .s1 MixSrc.toSrc MixKey.toSrc m.s1a
    ++ blockOf .a MixSrc.toSrc id m.asa
    ++ blockOf .s1 MixSrc.toSrc MixKey.toSrc m.s1b
    ++ blockOf .a MixSrc.toSrc id m.asb
    ++ blockOf .s2 S2Src.toSrc id m.s2
    ++ [m.f1Assignment]
    ++ blockOf .a F2Src.toSrc id ⟨m.f2, []⟩

/-- The whole network: the slot's assignment stands at the parameter's place among the blocks (42 R154). -/
def FullMix.assignments (m : FullMix) : List Assignment :=
  m.blocks.take m.slotPos ++ m.slotAssignment :: m.blocks.drop m.slotPos

/-- `FULLMIX(B, a, s1, s2, h, v)` (42 R150, R151), and the number of the next table read. -/
def FullMix.run (m : FullMix) (b : Nat → Word → Byte) (w : Work) (n : Nat) : Work × Nat :=
  runAssignments b m.assignments w n

/-- Is the term a lookup? -/
def Term.isLookup {σ κ : Type} : Term σ κ → Bool
  | .plain _ => false
  | .lookup _ _ => true

/-- `L`: the lookups of one `FULLMIX` (70 R219). -/
def FullMix.lookups (m : FullMix) : Nat :=
  (m.assignments.map (fun x => x.terms.countP Term.isLookup)).sum

end Sys2Proof
end

