-- ==== Sys2Proof/Machine/Ops.lean ====
section
/-! DEFINITION. The named operations the meanings share: raising an error (00 R13, 60 R190 to R193), the table port (20 R66
to R69), the fast step (41 R130), the full step (42 R150), the finalization loop (43 R170 to R172), starting a context
(40 R111), accepting a command (10 R32), changing the table, and reset (70 R210). The block takes no exception and returns from
none (60 R190, R194): `State.raise` is what stands in an exception's place. -/

namespace Sys2Proof.Machine

/-! ### Errors -/

/-- `raise E`: set the sticky bit and nothing else (00 R13, 60 R193). -/
def State.raise (s : State) (e : ErrorCode) : State := { s with errors := s.errors.set e }

/-! ### The table port -/

/-- The table that answers read number `n`: the one at the port or, where the table changed under the digest, any that
stood there since `INIT` was accepted (20 R69). -/
def versionFor (now : Memory) (past : List Memory) (n : Nat) : Memory :=
  match past with
  | [] => now
  | p :: ps => (now :: p :: ps).getD (Config.raceVersion n % (ps.length + 2)) now

/-- The byte a table answers read number `n` with; beyond its end, a free byte (20 R68). -/
def Memory.answer (m : Memory) (n : Nat) (i : BitVec 32) : Byte :=
  match m.read? i.toNat with
  | some b => b
  | none => Config.shortTableByte n i

/-- `TableRead(i)` as read number `n` (20 R67 to R69). -/
def State.tableRead (s : State) (n : Nat) (i : BitVec 32) : Byte := (versionFor s.table s.past n).answer n i

/-- `b(x)`, the raw byte lookup under the current `MASK`, as read number `n` (00 R12). -/
def State.lookup (s : State) (n : Nat) (x : Word) : Byte := s.tableRead n (tableIndex s.mapBits x)

/-! ### The steps -/

/-- `idx = CNT[4:0]` (10 R27). -/
def State.idx (s : State) : Slot := slotOf s.cnt

/-- `Rotate` (41 R133). -/
def State.rotate (s : State) : State := { s with s1 := s.s3, s2 := s.s1, s3 := s.s2 }

/-- Line (2) of the fast step: the new `AS` (41 R130, R131). -/
def fastAcc (p : Params) (acc v bb : Word) : Word := shl acc p.fastAsL ^^^ shr acc p.fastAsR ^^^ injection v bb

/-- Line (3) of the fast step: the new `S1`, before the rotation (41 R130, R132). -/
def fastS1 (p : Params) (s1 h : Word) : Word := shl s1 p.fastS1L ^^^ shr s1 p.fastS1R ^^^ h

/-- `FastStep(v, idx)` (41 R130): one lookup, the updates in order, the rotation. -/
def fastStep (p : Params) (v : Word) (i : Slot) (s : State) : State :=
  let bb := zext64 (s.lookup s.reads (s.acc ^^^ v))
  let acc := fastAcc p s.acc v bb
  let s1 := fastS1 p s.s1 s.hs[i]
  State.rotate { s with acc := acc, s1 := s1, hs := s.hs.set i (s1 ^^^ acc), reads := s.reads + 1 }

/-- The operands of `FULLMIX` at entry (42 R151). -/
def State.work (s : State) (v : Word) (i : Slot) : Work := ⟨s.s1, s.acc, s.s2, s.hs[i], v⟩

/-- `FullStep(v, idx)` (42 R150): the network, then the rotation. -/
def fullStep (p : Params) (v : Word) (i : Slot) (s : State) : State :=
  let r := p.fullMix.run s.lookup (s.work v i) s.reads
  State.rotate { s with acc := r.1.a, s1 := r.1.s1, s2 := r.1.s2, hs := s.hs.set i r.1.h, reads := r.2 }

/-- `CNT <- (CNT + 1) mod 2^32` (10 R27). -/
def State.countByte (s : State) : State := { s with cnt := s.cnt + 1 }

/-! ### Finalization -/

/-- `DIGEST[i] <- b(AS) ^ b(HS[i])` (43 R172), two lookups. -/
def emitByte (i : Slot) (s : State) : State :=
  { s with
    digest := s.digest.set i (s.lookup s.reads s.acc ^^^ s.lookup (s.reads + 1) s.hs[i])
    reads := s.reads + 2 }

/-- Iteration `i` of the finalization loop (43 R170): the full step on `HS[i]`, then the digest byte. -/
def finalIteration (p : Params) (i : Slot) (s : State) : State := emitByte i (fullStep p s.hs[i] i s)

/-- The finalization loop over slots `n-1` down to 0 (43 R171); its counter is the hidden `FIN_I` (10 R30). -/
def finalizeDown (p : Params) : (n : Nat) → n ≤ 32 → State → State
  | 0, _, s => s
  | n + 1, h, s => finalizeDown p n (Nat.le_of_succ_le h) (finalIteration p ⟨n, h⟩ s)

/-! ### Contexts, commands, tables and reset -/

/-- What a legal `INIT K` writes (40 R111). -/
def State.startContext (s : State) (k : BitVec 6) : State :=
  { s with
    hs := Vector.replicate 32 0
    acc := Config.seed
    s1 := 0
    s2 := 0
    s3 := 0
    mapBits := k
    cnt := 0
    len1 := 0
    digest := Vector.replicate 32 0
    phase := .pass1 }

/-- `LEN1 <- CNT`, `CNT <- 0`, `PHASE <- PASS2` (40 R112). -/
def State.startPass2 (s : State) : State := { s with len1 := s.cnt, cnt := 0, phase := .pass2 }

/-- `PHASE <- v`. -/
def State.setPhase (s : State) (v : Phase) : State := { s with phase := v }

/-- A `CMD` write of `w` is accepted: `BUSY <- 1`, `PEND <- w`, nothing else of the block (10 R32). Accepting an `INIT`
word starts the interval in which the table must stay (20 R69), so the model forgets earlier changes (log 10). -/
def State.accept (s : State) (w : Reg) : State :=
  { s with
    busy := true
    pend := w
    past := if isInitWord w then [] else s.past
    readsAtInit := if isInitWord w then s.reads else s.readsAtInit }

/-- The completion step clears `BUSY` (10 R32). -/
def State.clearBusy (s : State) : State := { s with busy := false }

/-- The host clears error bits (10 R41). -/
def State.clearErrors (s : State) (w : Reg) : State := { s with errors := s.errors.clear w }

/-- `DBG_SEL <- w[5:0]` (10 R45). -/
def State.setDbgSel (s : State) (w : Reg) : State := { s with dbgSel := w.extractLsb' 0 6 }

/-- The bus answers a transaction (20 R60). -/
def State.reply (s : State) (r : Reply) : State := { s with replies := r :: s.replies }

/-- The events still to come. -/
def State.setEvents (s : State) (es : List Event) : State := { s with events := es }

/-- Has the block read no table byte since the last `INIT` was accepted, and is no reading command in flight? -/
def State.tableUnread (s : State) : Bool :=
  decide (s.reads = s.readsAtInit) && !(s.busy && readsTableWord s.pend)

/-- Is no table bound, was none bound since the last `INIT` was accepted, and was no table byte read since? Then the platform
may still bind the digest's table (40 R111, 70 R212), and no byte changes by that (log 10). -/
def State.awaitsTable (s : State) : Bool :=
  decide (s.table.size = 0) && s.past.isEmpty && s.tableUnread

/-- The platform binds a table (30 R100): the table that a digest still waits for (70 R212), or else a change of the table,
after which the old one may still answer until the next `INIT` (20 R69). -/
def State.bindTable (s : State) (m : Memory) : State :=
  { s with table := m, past := if s.awaitsTable then s.past else s.table :: s.past }

/-- A write into the table memory (20 R69): the old table joins the ones that may still answer. -/
def State.writeTable (s : State) (i : Nat) (v : Byte) : State :=
  { s with table := s.table.write i v, past := s.table :: s.past }

/-- The reset input: every piece of the block's state takes its reset value, the command in flight is abandoned, and the
table is not touched (70 R210). The host's bus and the numbering of the reads are not the block's (log 19). -/
def State.hardReset (s : State) : State :=
  { State.reset with
    table := s.table
    past := s.past
    reads := s.reads
    readsAtInit := s.readsAtInit
    events := s.events
    replies := s.replies }

end Sys2Proof.Machine
end

