-- ==== Sys2Proof/Machine/Bus.lean ====
section
/-! DEFINITION. The host's side: the register window (10 R40 to R48, 20 R60 to R65), the busy hold (70 R214), and what happens
next at the block's boundary. -/

namespace Sys2Proof.Machine

/-- The platform address of a window offset (20 R61). -/
def hostAddress (off : BitVec 7) : Nat := Config.base + off.toNat

/-- The register at an offset (10 section 3); bits 1:0 are 0 in a legal access. -/
def registerAt (off : BitVec 7) : Register :=
  match off.toNat / 4 with
  | 0 => .id
  | 1 => .status
  | 2 => .cmd
  | 3 => .count
  | 4 => .len1
  | 5 => .dbgSel
  | 6 => .dbgLo
  | 7 => .dbgHi
  | 8 => .digest 0
  | 9 => .digest 1
  | 10 => .digest 2
  | 11 => .digest 3
  | 12 => .digest 4
  | 13 => .digest 5
  | 14 => .digest 6
  | 15 => .digest 7
  | _ => .reserved

/-- The 64-bit word that `DBG_SEL` selects (10 R46). -/
def State.debugWord (s : State) : Word :=
  if h : s.dbgSel.toNat < 32 then s.hs[s.dbgSel.toNat]
  else if s.dbgSel.toNat = 32 then s.acc
  else if s.dbgSel.toNat = 33 then s.s1
  else if s.dbgSel.toNat = 34 then s.s2
  else if s.dbgSel.toNat = 35 then s.s3
  else 0

/-- `DIGESTn = {DIGEST[4n+3], DIGEST[4n+2], DIGEST[4n+1], DIGEST[4n]}` (10 R47). -/
def State.digestWord (s : State) (n : Fin 8) : Reg :=
  s.digest[4 * n.val + 3] ++ s.digest[4 * n.val + 2] ++ s.digest[4 * n.val + 1] ++ s.digest[4 * n.val]

/-- `RegRead`: the value a register reads as (10 R40 to R48, 20 R62). -/
def State.regRead (s : State) : Register → Reg
  | .id => Config.idValue
  | .status => statusWord s
  | .cmd => 0
  | .count => s.cnt
  | .len1 => s.len1
  | .dbgSel => s.dbgSel.setWidth 32
  | .dbgLo => s.debugWord.extractLsb' 0 32
  | .dbgHi => s.debugWord.extractLsb' 32 32
  | .digest n => s.digestWord n
  | .reserved => 0

/-- `RegWrite`: the effect of writing a register (20 R63); read-only and reserved registers ignore it. -/
def State.regWrite (s : State) (v : Reg) : Register → State
  | .id => s
  | .status => s.clearErrors v
  | .cmd => s.accept v
  | .count => s
  | .len1 => s
  | .dbgSel => s.setDbgSel v
  | .dbgLo => s
  | .dbgHi => s
  | .digest _ => s
  | .reserved => s

/-- Is the register read at once while `BUSY = 1` (70 R214)? -/
def readableWhileBusy : Register → Bool
  | .id => true
  | .status => true
  | .cmd => false
  | .count => false
  | .len1 => false
  | .dbgSel => false
  | .dbgLo => false
  | .dbgHi => false
  | .digest _ => false
  | .reserved => false

/-- Is the access held while `BUSY = 1`? Every transaction is, except a read of `ID` or `STATUS` (70 R214). -/
def heldWhileBusy (a : Access) : Bool :=
  match a.op with
  | .read => !(a.wellFormed && readableWhileBusy (registerAt (windowOffset a.addr)))
  | .write _ => true

/-- Serve one access: a malformed one gets an ERROR response and has no effect (20 R64); the others get OKAY (20 R62,
R63). -/
def serve (a : Access) (s : State) : State :=
  match a.op with
  | .read =>
    if a.wellFormed then s.reply ⟨.okay, some (s.regRead (registerAt (windowOffset a.addr)))⟩
    else s.reply ⟨.error, some 0⟩
  | .write v =>
    if a.wellFormed then (s.regWrite v (registerAt (windowOffset a.addr))).reply ⟨.okay, none⟩
    else s.reply ⟨.error, none⟩

/-- The answer to a read of `STATUS` (10 R41). -/
def State.replyStatus (s : State) : State := s.reply ⟨.okay, some (statusWord s)⟩

/-- Who moves next (10 R32, 70 R214). A held access or a `POLL` out of busy reads lets the command in flight complete
first and stays at the head; with no event left, a command in flight completes (20 R70, 70 R220). -/
def schedule (s : State) : Turn :=
  match s.events with
  | [] => if s.busy then .complete s else .moved s
  | .access a :: es =>
    if s.busy && heldWhileBusy a then .complete s else .moved (serve a (s.setEvents es))
  | .poll n :: es =>
    if s.busy then
      match n with
      | 0 => .complete s
      | m + 1 => .moved (s.replyStatus.setEvents (.poll m :: es))
    else .moved (s.replyStatus.setEvents es)
  | .complete :: es => if s.busy then .complete (s.setEvents es) else .moved (s.setEvents es)
  | .reset :: es => .moved (s.setEvents es).hardReset
  | .bindTable size cells :: es => .moved ((s.setEvents es).bindTable (Memory.ofCells size cells))
  | .writeTable i v :: es => .moved ((s.setEvents es).writeTable i v)

end Sys2Proof.Machine
end

