-- ==== Sys2Proof/Machine/Control.lean ====
section
/-! DEFINITION. The context-control commands NOP, INIT and PASS2 (40 R110 to R112). -/

namespace Sys2Proof.Machine

/-- `NOP` does nothing, in every phase (40 R110). -/
def execNop (s : State) : Host.Outcome State Fault Refusal := .next s

/-- `INIT K` (40 R111): an illegal `K` leaves the context for `IDLE` and raises `CFG`; a legal one starts a context. -/
def execInit (k : BitVec 6) (s : State) : Host.Outcome State Fault Refusal :=
  if mapBitsLegal k then .next (s.startContext k) else .next ((s.setPhase .idle).raise .cfg)

/-- `PASS2` (40 R112): legal in `PASS1` only. -/
def execPass2 (s : State) : Host.Outcome State Fault Refusal :=
  if s.phase = .pass1 then .next s.startPass2 else .next (s.raise .seq)

end Sys2Proof.Machine
end

