-- ==== Sys2Proof/Machine/FastPass.lean ====
section
/-! DEFINITION. Pass 1: the FAST command (41 R134). -/

namespace Sys2Proof.Machine

/-- `FAST V` (41 R134): legal in `PASS1` only; one fast step at slot `CNT[4:0]`, then the byte counts. -/
def execFast (v : Byte) (s : State) : Host.Outcome State Fault Refusal :=
  if s.phase = .pass1 then .next (fastStep Config.params (zext64 v) s.idx s).countByte else .next (s.raise .seq)

end Sys2Proof.Machine
end

