-- ==== Sys2Proof/Machine/Finalize.lean ====
section
/-! DEFINITION. Pass 3: the FINAL command (43 R170). -/

namespace Sys2Proof.Machine

/-- `FINAL` (43 R170): the phase check, then the length check (43 R173), then slots 31 down to 0. -/
def execFinal (s : State) : Host.Outcome State Fault Refusal :=
  if s.phase = .pass2 then
    if s.cnt = s.len1 then .next ((finalizeDown Config.params 32 (Nat.le_refl 32) s).setPhase .done)
    else .next (s.raise .len)
  else .next (s.raise .seq)

end Sys2Proof.Machine
end

