-- ==== Sys2Proof/Machine/FullPass.lean ====
section
/-! DEFINITION. Pass 2: the FULL command (42 R156). -/

namespace Sys2Proof.Machine

/-- `FULL V` (42 R156): legal in `PASS2` only; one full step at slot `CNT[4:0]`, then the byte counts. -/
def execFull (v : Byte) (s : State) : Host.Outcome State Fault Refusal :=
  if s.phase = .pass2 then .next (fullStep Config.params (zext64 v) s.idx s).countByte else .next (s.raise .seq)

end Sys2Proof.Machine
end

