-- ==== Sys2Proof/Machine/Dispatch.lean ====
section
/-! DEFINITION. The effect of each command (30 R95): one arm per constructor of Instr. -/

namespace Sys2Proof.Machine

def exec (i : Instr) (s : State) : Host.Outcome State Fault Refusal :=
  match i with
  | .nop => Sys2Proof.Machine.execNop s
  | .init k => Sys2Proof.Machine.execInit k s
  | .fast v => Sys2Proof.Machine.execFast v s
  | .pass2 => Sys2Proof.Machine.execPass2 s
  | .full v => Sys2Proof.Machine.execFull v s
  | .final => Sys2Proof.Machine.execFinal s

end Sys2Proof.Machine
end

