-- ==== Sys2Proof/Machine/Sequencer.lean ====
section
/-! DEFINITION. The completion of the command in flight (10 R32, 30 R95). -/

namespace Sys2Proof.Machine

/-- Complete the command in flight: `BUSY` clears, and `PEND` executes atomically; an illegal word raises `ILL` (10 R32,
30 R95, R96). -/
def completeCommand (s : State) : Host.Outcome State Fault Refusal :=
  match decode s.pend with
  | .ok i => exec i s.clearBusy
  | .error _ => .next (s.clearBusy.raise .ill)

/-- Put a command in flight so that the next step completes it (log 1). -/
def State.inFlight (s : State) (w : Reg) : State :=
  { s with busy := true, pend := w, events := .complete :: s.events }

end Sys2Proof.Machine
end

