-- ==== Sys2Proof/Machine/Step.lean ====
section
/-! DEFINITION. One step of the machine (10 R32, 60 R196): the boundary moves, or the sequencer completes the command in
flight. -/

namespace Sys2Proof.Machine

/-- One step. -/
def step (s : State) : Host.Outcome State Fault Refusal :=
  match schedule s with
  | .moved t => .next t
  | .complete t => completeCommand t

/-- `s` with the command word `w` accepted and about to complete, so that the next step runs exactly it (log 1). -/
def State.withFetchWord (s : State) (nbits w : Nat) : State := s.inFlight (BitVec.ofNat 32 (w % 2 ^ nbits))

end Sys2Proof.Machine
end

