-- ==== Sys2Proof/Machine/Program.lean ====
section
/-! DEFINITION. Host programs: what each source line asks of the block (30 R98 to R100). -/

namespace Sys2Proof.Machine

/-- The offset of `CMD` (10 R42). -/
def cmdOffset : BitVec 7 := 0x08#7

/-- The host writes a register: `WR off, v` (30 R100). -/
def registerWrite (off : BitVec 7) (v : Reg) : Event := .access ⟨hostAddress off, .word, .write v⟩

/-- The host reads a register: `RD off` (30 R100). -/
def registerRead (off : BitVec 7) : Event := .access ⟨hostAddress off, .word, .read⟩

/-- A command is an implicit `WR CMD, w` (30 R100). -/
def commandWrite (w : Reg) : Event := registerWrite cmdOffset w

/-- `ABSORB1 bytes` (30 R99). -/
def absorb1 (bytes : List Byte) : List Event := bytes.map (fun b => commandWrite (encode (.fast b)))

/-- `ABSORB2 bytes` (30 R99). -/
def absorb2 (bytes : List Byte) : List Event := bytes.map (fun b => commandWrite (encode (.full b)))

/-- `DIGEST k, bytes` (30 R99). -/
def digestProgram (k : BitVec 6) (bytes : List Byte) : List Event :=
  commandWrite (encode (.init k)) :: absorb1 bytes
    ++ commandWrite (encode .pass2) :: absorb2 bytes
    ++ [commandWrite (encode .final)]

/-- What a well-formed line asks of the block; an ill-formed one is an assembler error (30 R98). How completions fall among the
lines is open (70 R214, 93 U8), and log 26 says how it is written. -/
def lineEvents (l : HostLine) : Option (List Event) :=
  if l.wellFormed then
    match l with
    | .cmd c => c.assemble.map (fun w => [commandWrite w])
    | .absorb1 bytes => some (Machine.absorb1 bytes)
    | .absorb2 bytes => some (Machine.absorb2 bytes)
    | .digest k bytes => some (digestProgram (BitVec.ofNat 6 k) bytes)
    | .wr off v => some [registerWrite (BitVec.ofNat 7 off) (BitVec.ofNat 32 v)]
    | .rd off late => some ((if late then [.complete] else []) ++ [registerRead (BitVec.ofNat 7 off)])
    | .poll n => some [.poll n]
    | .bind size cells => some [.bindTable size cells]
  else none

/-- A host program: its lines in order; an ill-formed line is an error of the whole. -/
def programEvents : List HostLine → Option (List Event)
  | [] => some []
  | l :: ls =>
    match lineEvents l, programEvents ls with
    | some es, some fs => some (es ++ fs)
    | _, _ => none

end Sys2Proof.Machine
end

