-- ==== Sys2Proof/Machine/Assembler.lean ====
section
/-! DEFINITION. The assembler's text (30 R98 to R100): one command, pseudo-instruction or host operation a line,
case-insensitive mnemonics, numbers in decimal or `0x` hexadecimal, `;` to the end of the line for comments. What separates
words, and that `0X` also introduces a hexadecimal number, are this model's (log 26). -/

namespace Sys2Proof.Machine

/-- Drop a comment; a `;` inside a quoted byte string is none. -/
def dropComment (quoted : Bool) : List Char → List Char
  | [] => []
  | c :: cs =>
    if c = ';' && !quoted then []
    else c :: dropComment (if c = '"' then !quoted else quoted) cs

/-- A blank between words. -/
def isBlank (c : Char) : Bool := c = ' ' || c = '\t'

/-- Drop leading blanks. -/
def skipBlanks (cs : List Char) : List Char := cs.dropWhile isBlank

/-- Drop trailing blanks. -/
def trimEnd (cs : List Char) : List Char := (skipBlanks cs.reverse).reverse

/-- The value of a digit in base 10 or 16. -/
def digitValue (base : Nat) (c : Char) : Option Nat :=
  let n := c.toNat
  let d := if 48 ≤ n && n ≤ 57 then n - 48
    else if 97 ≤ n && n ≤ 102 then n - 87
    else if 65 ≤ n && n ≤ 70 then n - 55
    else 16
  if d < base then some d else none

/-- A number's digits, most significant first. -/
def digitsValue (base : Nat) : Nat → List Char → Option Nat
  | acc, [] => some acc
  | acc, c :: cs =>
    match digitValue base c with
    | some d => digitsValue base (acc * base + d) cs
    | none => none

/-- A number: decimal, or hexadecimal after `0x` (30 R98). -/
def parseNumber (cs : List Char) : Option Nat :=
  match cs with
  | [] => none
  | ['0', 'x'] => none
  | ['0', 'X'] => none
  | '0' :: 'x' :: ds => digitsValue 16 0 ds
  | '0' :: 'X' :: ds => digitsValue 16 0 ds
  | ds => digitsValue 10 0 ds

/-- Upper case of an ASCII letter. -/
def upper (c : Char) : Char := if 97 ≤ c.toNat && c.toNat ≤ 122 then Char.ofNat (c.toNat - 32) else c

/-- One byte of a bracketed list. -/
def parseByte (cs : List Char) : Option Byte :=
  match parseNumber (trimEnd (skipBlanks cs)) with
  | some n => if n < 256 then some (BitVec.ofNat 8 n) else none
  | none => none

/-- Split at commas. -/
def splitCommas : List Char → List (List Char)
  | [] => [[]]
  | c :: cs =>
    match splitCommas cs with
    | [] => [[c]]
    | w :: ws => if c = ',' then [] :: w :: ws else (c :: w) :: ws

/-- All of a list of options, or none. -/
def allSome {α : Type} : List (Option α) → Option (List α)
  | [] => some []
  | some x :: xs => (allSome xs).map (fun ys => x :: ys)
  | none :: _ => none

/-- A quoted byte string, in ASCII, up to its closing quote. -/
def quotedBytes : List Char → Option (List Byte)
  | [] => none
  | ['"'] => some []
  | c :: cs =>
    if c = '"' then none
    else if c.toNat < 128 then (quotedBytes cs).map (fun bs => BitVec.ofNat 8 c.toNat :: bs)
    else none

/-- A byte string: `"..."` or `[b0, b1, ...]` (30 R99). -/
def parseBytes (cs : List Char) : Option (List Byte) :=
  match cs with
  | '"' :: rest => quotedBytes rest
  | '[' :: rest =>
    match rest.reverse with
    | ']' :: inner =>
      if skipBlanks inner = [] then some [] else allSome ((splitCommas inner.reverse).map parseByte)
    | _ => none
  | _ => none

/-- The text before the first comma and the text after it. -/
def cutComma : List Char → Option (List Char × List Char)
  | [] => none
  | c :: cs => if c = ',' then some ([], cs) else (cutComma cs).map (fun p => (c :: p.1, p.2))

/-- The text before the first `->` and the text after it. -/
def cutArrow : List Char → Option (List Char × List Char)
  | '-' :: '>' :: cs => some ([], cs)
  | c :: cs => (cutArrow cs).map (fun p => (c :: p.1, p.2))
  | [] => none

/-- The register names and their offsets (10 section 3, 30 R100). -/
def registerNames : List (List Char × Nat) :=
  [ (['I', 'D'], 0x00), (['S', 'T', 'A', 'T', 'U', 'S'], 0x04), (['C', 'M', 'D'], 0x08)
  , (['C', 'O', 'U', 'N', 'T'], 0x0C), (['L', 'E', 'N', '1'], 0x10), (['D', 'B', 'G', '_', 'S', 'E', 'L'], 0x14)
  , (['D', 'B', 'G', '_', 'L', 'O'], 0x18), (['D', 'B', 'G', '_', 'H', 'I'], 0x1C) ]
  ++ ['0', '1', '2', '3', '4', '5', '6', '7'].mapIdx (fun n c => (['D', 'I', 'G', 'E', 'S', 'T', c], 0x20 + 4 * n))

/-- An offset: a register's name or a number (30 R100). -/
def parseOffset (cs : List Char) : Option Nat :=
  match registerNames.find? (fun r => r.1 == cs.map upper) with
  | some r => some r.2
  | none => parseNumber cs

/-- How the completion of a command in flight falls at one line of a program, which is timing (70 R214, 93 U8): before the
read of an `RD` or after it, and after how many reads of a `POLL`. -/
structure LineTiming where
  late : Bool
  busyReads : Nat
deriving DecidableEq, Repr

/-- What a host program's text leaves to its surroundings (30 R100): the tables that `BIND` names, and the timing of each line
of the text, the first line's first, each free of the others'. A line that the list does not reach has `LineTiming.first`:
the form of this input is the model's (log 26). -/
structure Surroundings where
  tables : List (List Char × Nat × List (Nat × Byte))
  timings : List LineTiming
deriving DecidableEq, Repr

/-- The timing of a line for which none is given (log 26): a read comes before the completion, and a poll finds it at once. -/
def LineTiming.first : LineTiming := ⟨false, 0⟩

/-- The timing of line `n` of the text, counted from 0. -/
def Surroundings.timing (env : Surroundings) (n : Nat) : LineTiming := env.timings.getD n LineTiming.first

/-- The line a mnemonic and its operand text stand for, as line `n` of the text. -/
def lineOf (env : Surroundings) (n : Nat) (mnemonic operand : List Char) : Option HostLine :=
  match mnemonic with
  | ['N', 'O', 'P'] => if operand = [] then some (.cmd .nop) else none
  | ['I', 'N', 'I', 'T'] => (parseNumber operand).map (fun k => .cmd (.init k))
  | ['F', 'A', 'S', 'T'] => (parseNumber operand).map (fun v => .cmd (.fast v))
  | ['P', 'A', 'S', 'S', '2'] => if operand = [] then some (.cmd .pass2) else none
  | ['F', 'U', 'L', 'L'] => (parseNumber operand).map (fun v => .cmd (.full v))
  | ['F', 'I', 'N', 'A', 'L'] => if operand = [] then some (.cmd .final) else none
  | ['.', 'W', 'O', 'R', 'D'] => (parseNumber operand).map (fun w => .cmd (.word w))
  | ['A', 'B', 'S', 'O', 'R', 'B', '1'] => (parseBytes operand).map (fun bs => .absorb1 bs)
  | ['A', 'B', 'S', 'O', 'R', 'B', '2'] => (parseBytes operand).map (fun bs => .absorb2 bs)
  | ['D', 'I', 'G', 'E', 'S', 'T'] =>
    match cutComma operand with
    | some (k, bytes) =>
      match parseNumber (trimEnd k), parseBytes (skipBlanks bytes) with
      | some k, some bs => some (.digest k bs)
      | _, _ => none
    | none => none
  | ['W', 'R'] =>
    match cutComma operand with
    | some (off, v) =>
      match parseOffset (trimEnd off), parseNumber (skipBlanks v) with
      | some off, some v => some (.wr off v)
      | _, _ => none
    | none => none
  | ['R', 'D'] =>
    match cutArrow operand with
    | some (off, name) =>
      if skipBlanks name = [] then none else (parseOffset (trimEnd off)).map (fun off => .rd off (env.timing n).late)
    | none => none
  | ['P', 'O', 'L', 'L'] => if operand = [] then some (.poll (env.timing n).busyReads) else none
  | ['B', 'I', 'N', 'D'] => (env.tables.find? (fun t => t.1 == operand)).map (fun t => .bind t.2.1 t.2.2)
  | _ => none

/-- Parse line `n` of a text: `some none` for a line with nothing but blanks and a comment, `none` for an error (30 R98). -/
def parseLine (env : Surroundings) (n : Nat) (cs : List Char) : Option (Option HostLine) :=
  let body := trimEnd (skipBlanks (dropComment false cs))
  if body = [] then some none
  else
    let mnemonic := (body.takeWhile (fun c => !isBlank c)).map upper
    let operand := skipBlanks (body.dropWhile (fun c => !isBlank c))
    match lineOf env n mnemonic operand with
    | some l => if l.wellFormed then some (some l) else none
    | none => none

/-- The lines of a text. -/
def splitLines : List Char → List (List Char)
  | [] => [[]]
  | c :: cs =>
    match splitLines cs with
    | [] => [[c]]
    | l :: ls => if c = '\n' then [] :: l :: ls else (c :: l) :: ls

/-- Parse a host program: its lines in order, an error in any line being an error of the whole. -/
def parseProgram (env : Surroundings) (text : List Char) : Option (List HostLine) :=
  (allSome ((splitLines text).zipIdx.map (fun l => parseLine env l.2 l.1))).map (fun ls => ls.filterMap id)

end Sys2Proof.Machine
end

