-- ==== Sys2Proof/Machine/Reference.lean ====
section
/-! DEFINITION. The source's function `digest(table, map_size_bits, input)` (43 R175), written from the three passes as the
spec gives them (41 R130, 42 R150, 43 R170 to R172) and from nothing of the machine but the parameters and the network's
interpreter: no phase, no counter, no bus. `T i` is the table's byte at index `i`. -/

namespace Sys2Proof.Reference

open Machine

/-- The source's engine state (10 R20 to R22). -/
structure Ctx where
  hs : Vector Word 32
  acc : Word
  s1 : Word
  s2 : Word
  s3 : Word
deriving DecidableEq, Repr

/-- The state at the start of an invocation (40 R111). -/
def Ctx.start : Ctx := ⟨Vector.replicate 32 0, Config.seed, 0, 0, 0⟩

/-- `table_lookup(x)`: the byte at `x mod 2^k` (00 R12). -/
def look (T : Nat → Byte) (k : Nat) (x : Word) : Byte := T (x.toNat % 2 ^ k)

/-- The fast step (41 R130). -/
def fastStep (p : Params) (T : Nat → Byte) (k : Nat) (v : Byte) (i : Slot) (c : Ctx) : Ctx :=
  let v64 := v.setWidth 64
  let bb := (look T k (c.acc ^^^ v64)).setWidth 64
  let acc := (c.acc <<< p.fastAsL.val) ^^^ (c.acc >>> p.fastAsR.val)
    ^^^ ((v64 <<< 20) ^^^ (v64 <<< 16) ^^^ v64 ^^^ (bb <<< 20) ^^^ (bb <<< 12) ^^^ (bb <<< 4))
  let s1 := (c.s1 <<< p.fastS1L.val) ^^^ (c.s1 >>> p.fastS1R.val) ^^^ c.hs[i]
  ⟨c.hs.set i (s1 ^^^ acc), acc, c.s3, s1, c.s2⟩

/-- The full step (42 R150). -/
def fullStep (p : Params) (T : Nat → Byte) (k : Nat) (v : Word) (i : Slot) (c : Ctx) : Ctx :=
  let w := (p.fullMix.run (fun _ x => look T k x) ⟨c.s1, c.acc, c.s2, c.hs[i], v⟩ 0).1
  ⟨c.hs.set i w.h, w.a, c.s3, w.s1, w.s2⟩

/-- The slot of a byte: `byte_index mod 32` (10 R27). -/
def slotOfIndex (n : Nat) : Slot := ⟨n % 32, Nat.mod_lt n (by decide)⟩

/-- Pass 1 over the bytes from index `n` on. -/
def pass1 (p : Params) (T : Nat → Byte) (k : Nat) : List Byte → Nat → Ctx → Ctx
  | [], _, c => c
  | v :: vs, n, c => pass1 p T k vs (n + 1) (fastStep p T k v (slotOfIndex n) c)

/-- Pass 2 over the bytes from index `n` on. -/
def pass2 (p : Params) (T : Nat → Byte) (k : Nat) : List Byte → Nat → Ctx → Ctx
  | [], _, c => c
  | v :: vs, n, c => pass2 p T k vs (n + 1) (fullStep p T k (v.setWidth 64) (slotOfIndex n) c)

/-- Pass 3 over slots `n-1` down to 0: the step on the slot's own word, then the byte `b(as) ^ b(hs[i])`, written to
position `i` of the output (43 R170, R172). -/
def pass3 (p : Params) (T : Nat → Byte) (k : Nat) : (n : Nat) → n ≤ 32 → Ctx → Vector Byte 32 → Vector Byte 32
  | 0, _, _, out => out
  | n + 1, h, c, out =>
    let i : Slot := ⟨n, h⟩
    let c := fullStep p T k c.hs[i] i c
    pass3 p T k n (Nat.le_of_succ_le h) c (out.set i (look T k c.acc ^^^ look T k c.hs[i]))

/-- The source's function (43 R175). -/
def digest (p : Params) (T : Nat → Byte) (k : Nat) (x : List Byte) : Vector Byte 32 :=
  pass3 p T k 32 (Nat.le_refl 32) (pass2 p T k x 0 (pass1 p T k x 0 Ctx.start)) (Vector.replicate 32 0)

end Sys2Proof.Reference
end

