-- ==== Sys2Proof/Safety.lean ====
section
/-! DEFINITION. The terms claims about the machine use: the invariants of every state (10 R36), a table that stays (20 R67 to
R69), and the parts of the state that one kind of move may change. -/

namespace Sys2Proof.Machine

/-- The invariants of 10 R36 that relate fields: a digest in progress has a legal `MAPBITS`; in `PASS1` the length is 0;
in `DONE` the counts agree. -/
def State.PhaseInv (s : State) : Prop :=
  (s.phase ≠ .idle → mapBitsLegal s.mapBits = true)
    ∧ (s.phase = .pass1 → s.len1 = 0)
    ∧ (s.phase = .done → s.cnt = s.len1)

/-- The digest reads 0 until `FINAL` (70 R216). -/
def State.DigestClear (s : State) : Prop :=
  s.phase = .pass1 ∨ s.phase = .pass2 → s.digest = Vector.replicate 32 0

/-- Every table the state holds is in canonical form. -/
def State.MemoryWf (s : State) : Prop := s.table.wf = true ∧ ∀ m ∈ s.past, m.wf = true

/-- The table at the port has `2^K` bytes for `K = MAPBITS` and has not changed since `INIT` was accepted (20 R68, R69). -/
def State.TableStable (s : State) : Prop := s.past = [] ∧ 2 ^ s.mapBits.toNat ≤ s.table.size

/-- A table as a function, 0 beyond its end. -/
def Memory.byteAt (m : Memory) (i : Nat) : Byte := (m.read? i).getD 0

/-- `s` and `t` agree on everything but the datapath (10 R20 to R22), `CNT` and the numbering of the table reads: what a
`FAST` or a `FULL` leaves alone. -/
def SameButStep (s t : State) : Prop :=
  t.phase = s.phase ∧ t.mapBits = s.mapBits ∧ t.len1 = s.len1 ∧ t.digest = s.digest ∧ t.busy = s.busy
    ∧ t.pend = s.pend ∧ t.errors = s.errors ∧ t.dbgSel = s.dbgSel ∧ t.table = s.table ∧ t.past = s.past
    ∧ t.readsAtInit = s.readsAtInit ∧ t.events = s.events ∧ t.replies = s.replies

/-- `s` and `t` agree on the datapath: `HS`, `AS`, `S1`, `S2`, `S3` (10 R20 to R22). -/
def SameDatapath (s t : State) : Prop :=
  t.hs = s.hs ∧ t.acc = s.acc ∧ t.s1 = s.s1 ∧ t.s2 = s.s2 ∧ t.s3 = s.s3

/-- The phases a command is legal in: the table of 60 R191. -/
def phaseLegal : Instr → Phase → Bool
  | .nop, _ => true
  | .init _, _ => true
  | .fast _, p => p == .pass1
  | .pass2, p => p == .pass1
  | .full _, p => p == .pass2
  | .final, p => p == .pass2

/-- The error a command meets, the first that applies: the phase before the operand and the counts (60 R191, R192). -/
def errorOf (i : Instr) (s : State) : Option ErrorCode :=
  if phaseLegal i s.phase then
    match i with
    | .nop => none
    | .init k => if k.toNat < 1 ∨ 32 < k.toNat then some .cfg else none
    | .fast _ => none
    | .pass2 => none
    | .full _ => none
    | .final => if s.cnt ≠ s.len1 then some .len else none
  else some .seq

/-- Commands one after another, each executed whole (20 R74). -/
def runInstrs : List Instr → State → Host.Outcome State Fault Refusal
  | [], s => .next s
  | i :: is, s =>
    match exec i s with
    | .next t => runInstrs is t
    | .fault r => .fault r
    | .refused r => .refused r

/-- The next step is the completion step of the command in flight (10 R32), and leaves the events `es`: the sequencer's turn
has come, or the next access is held (70 R214), or a poll has no busy read left, or nothing else is left to happen. That the
last two force the completion is log 2. -/
def State.Completes (s : State) (es : List Event) : Prop :=
  s.busy = true
    ∧ (s.events = .complete :: es
      ∨ (es = s.events
        ∧ (s.events = [] ∨ (∃ fs, s.events = .poll 0 :: fs)
          ∨ ∃ a fs, s.events = .access a :: fs ∧ heldWhileBusy a = true)))

/-- An event that submits no command, writes no register and does not reset: a read, a poll, a completion, or a change of the
table. -/
def Event.isBystander : Event → Bool
  | .access a => a.op == .read
  | .poll _ => true
  | .complete => true
  | .reset => false
  | .bindTable _ _ => true
  | .writeTable _ _ => true

/-- An event that changes the table at the port: a binding, or a write into table memory (20 R69). -/
def Event.changesTable : Event → Bool
  | .access _ => false
  | .poll _ => false
  | .complete => false
  | .reset => false
  | .bindTable _ _ => true
  | .writeTable _ _ => true

/-- The table at the port after the bindings and table writes among the events. -/
def tableAfter (m : Memory) (es : List Event) : Memory :=
  es.foldl
    (fun m e =>
      match e with
      | .access _ => m
      | .poll _ => m
      | .complete => m
      | .reset => m
      | .bindTable size cells => Memory.ofCells size cells
      | .writeTable i v => m.write i v) m

/-- How many steps an event can take while a command is in flight. -/
def eventCost : Event → Nat
  | .poll n => n + 1
  | _ => 1

/-- How many steps the events can take while a command is in flight. -/
def eventsCost (es : List Event) : Nat := (es.map eventCost).sum

end Sys2Proof.Machine

/-- The terms of an assignment read the given sources only, its shifted terms `plain` and its lookups' keys `keys` (42
R153). -/
def Sys2Proof.Assignment.ReadsOnly (x : Sys2Proof.Assignment) (plain keys : List Sys2Proof.Src) : Prop :=
  ∀ t ∈ x.terms,
    match t with
    | .plain y => y.src ∈ plain
    | .lookup key _ => ∀ y ∈ key.toList, y.src ∈ keys
end

