-- ==== Sys2Proof/Certificates/Slice0/Obligations.lean ====
section
/-! DEFINITION. The statements about the machine, for the provers. Each docstring names the rule of spec/ it formalises. -/

open Sys2Proof Sys2Proof.Machine

/-! ### Encoding (file 30) -/

/-- Decoding the encoding of a command gives the command back, for every operand (30 R90 to R95). -/
def Obligations.DecodeOfEncode : Prop := ∀ i : Instr, decode (encode i) = .ok i

/-- A word that decodes is the encoding of what it decodes to: no bit of it is ignored (30 R95, R96). -/
def Obligations.EncodeOfDecode : Prop := ∀ (w : Reg) (i : Instr), decode w = .ok i → encode i = w

/-- The opcode map (30 R94): a word decodes to a command of a row exactly when `(w & mask) = match` for that row, and no
word matches two rows. -/
def Obligations.OpcodeMapSelects : Prop :=
  (∀ (w : Reg) (r : OpcodeRow), r ∈ opcodeMap → (w &&& r.mask = r.pattern ↔ ∃ i, decode w = .ok i ∧ i.row = r))
    ∧ (∀ (w : Reg) (i : Instr), decode w = .ok i → i.row ∈ opcodeMap)
    ∧ (∀ (w : Reg) (r r' : OpcodeRow), r ∈ opcodeMap → r' ∈ opcodeMap → w &&& r.mask = r.pattern →
        w &&& r'.mask = r'.pattern → r = r')

/-- The illegal encodings (30 R96): `OP` in `0x6..0xF`, or a defined `OP` with a nonzero must-be-zero bit of its format. -/
def Obligations.IllegalEncodingsRejected : Prop :=
  ∀ w : Reg,
    (6 ≤ w.toNat / 2 ^ 28 → decode w = .error .reservedOpcode)
      ∧ (w.toNat / 2 ^ 28 ∈ [0, 3, 5] → w.toNat % 2 ^ 28 ≠ 0 → decode w = .error .mustBeZero)
      ∧ (w.toNat / 2 ^ 28 = 1 → w.toNat % 2 ^ 28 / 2 ^ 6 ≠ 0 → decode w = .error .mustBeZero)
      ∧ (w.toNat / 2 ^ 28 ∈ [2, 4] → w.toNat % 2 ^ 28 / 2 ^ 8 ≠ 0 → decode w = .error .mustBeZero)

/-- Words written out from 30 R92 and 95 section 3.4, and what they decode to. -/
def Obligations.DecodingOfWrittenWords : Prop :=
  decode 0x00000000#32 = .ok .nop ∧ decode 0x10000008#32 = .ok (.init 8) ∧ decode 0x20000061#32 = .ok (.fast 0x61)
    ∧ decode 0x30000000#32 = .ok .pass2 ∧ decode 0x400000FF#32 = .ok (.full 0xFF)
    ∧ decode 0x50000000#32 = .ok .final ∧ decode 0x10000048#32 = .error .mustBeZero
    ∧ decode 0x80000000#32 = .error .reservedOpcode

/-- The assembler's operands (30 R98): in range they stand in the word unchanged, out of range the line is an error. That
`INIT 0` is such a line, although program P3 of file 95 writes it (row 2), is log 29. -/
def Obligations.AssemblerNeverTruncates : Prop :=
  (∀ k, (Asm.init k).assemble.map BitVec.toNat = if 1 ≤ k ∧ k ≤ 63 then some (0x10000000 + k) else none)
    ∧ (∀ v, (Asm.fast v).assemble.map BitVec.toNat = if v ≤ 255 then some (0x20000000 + v) else none)
    ∧ (∀ v, (Asm.full v).assemble.map BitVec.toNat = if v ≤ 255 then some (0x40000000 + v) else none)
    ∧ (∀ w, (Asm.word w).assemble.map BitVec.toNat = if w < 2 ^ 32 then some w else none)
    ∧ Asm.nop.assemble = some 0x00000000#32 ∧ Asm.pass2.assemble = some 0x30000000#32
    ∧ Asm.final.assemble = some 0x50000000#32

/-! ### Commands (files 40 to 43) -/

/-- `NOP` (40 R110): its one word, and that it changes nothing, in every phase. -/
def Obligations.NopChangesNothing : Prop :=
  (∀ w : Reg, decode w = .ok .nop ↔ w = 0x00000000#32) ∧ ∀ s : State, exec .nop s = .next s

/-- `INIT K` (40 R111): its word; a legal `K` writes the whole context and leaves everything else; an illegal one leaves
everything but `PHASE <- IDLE` and `ERR_CFG <- 1`. -/
def Obligations.InitStartsOrAbandons : Prop :=
  ∀ (k : BitVec 6) (s : State),
    (∀ w : Reg, decode w = .ok (.init k) ↔ w = 0x10000000#32 ||| k.setWidth 32)
      ∧ (1 ≤ k.toNat ∧ k.toNat ≤ 32 →
      ∃ t, exec (.init k) s = .next t
        ∧ (∀ i : Slot, t.hs[i] = 0) ∧ t.acc = 0xFAFAECECFAFAECEC#64 ∧ t.s1 = 0 ∧ t.s2 = 0 ∧ t.s3 = 0
        ∧ t.mapBits = k ∧ t.cnt = 0 ∧ t.len1 = 0 ∧ (∀ j : Slot, t.digest[j] = 0) ∧ t.phase = .pass1
        ∧ t.errors = s.errors ∧ t.busy = s.busy ∧ t.pend = s.pend ∧ t.dbgSel = s.dbgSel
        ∧ (∀ a, t.table.read? a = s.table.read? a) ∧ t.table = s.table ∧ t.past = s.past ∧ t.reads = s.reads
        ∧ t.readsAtInit = s.readsAtInit ∧ t.events = s.events ∧ t.replies = s.replies)
      ∧ (k.toNat < 1 ∨ 32 < k.toNat →
        exec (.init k) s = .next { s with phase := .idle, errors := { s.errors with cfg := true } })

/-- `PASS2` (40 R112): its one word; in `PASS1` it latches the length, restarts the count and changes nothing else;
elsewhere it sets `ERR_SEQ` and nothing else. -/
def Obligations.Pass2SwitchesPass : Prop :=
  (∀ w : Reg, decode w = .ok .pass2 ↔ w = 0x30000000#32) ∧ ∀ s : State,
    (s.phase = .pass1 → exec .pass2 s = .next { s with len1 := s.cnt, cnt := 0, phase := .pass2 })
      ∧ (s.phase ≠ .pass1 → exec .pass2 s = .next { s with errors := { s.errors with seq := true } })

/-- `FAST V` (41 R130, R134): its word; outside `PASS1` it sets `ERR_SEQ` and nothing else; in `PASS1` the one lookup, the
five lines of the fast step with their shift amounts, the slot `CNT mod 32`, the count, and what stays. -/
def Obligations.FastAbsorbsByte : Prop :=
  ∀ (v : Byte) (s : State) (idx : Slot), idx.val = s.cnt.toNat % 32 →
    (∀ w : Reg, decode w = .ok (.fast v) ↔ w = 0x20000000#32 ||| v.setWidth 32)
      ∧ (s.phase ≠ .pass1 → exec (.fast v) s = .next { s with errors := { s.errors with seq := true } })
      ∧ (s.phase = .pass1 → ∃ t, exec (.fast v) s = .next t
        ∧ (let v64 : Word := v.setWidth 64
           let bb : Word :=
             (s.tableRead s.reads (BitVec.ofNat 32 ((s.acc ^^^ v64).toNat % 2 ^ s.mapBits.toNat))).setWidth 64
           let acc : Word :=
             (s.acc <<< Config.params.fastAsL.val) ^^^ (s.acc >>> Config.params.fastAsR.val)
               ^^^ ((v64 <<< 20) ^^^ (v64 <<< 16) ^^^ v64 ^^^ (bb <<< 20) ^^^ (bb <<< 12) ^^^ (bb <<< 4))
           let s1 : Word :=
             (s.s1 <<< Config.params.fastS1L.val) ^^^ (s.s1 >>> Config.params.fastS1R.val) ^^^ s.hs[idx]
           t.acc = acc ∧ t.hs[idx] = s1 ^^^ acc ∧ (∀ j : Slot, j ≠ idx → t.hs[j] = s.hs[j])
             ∧ t.s1 = s.s3 ∧ t.s2 = s1 ∧ t.s3 = s.s2)
        ∧ t.cnt = s.cnt + 1 ∧ t.reads = s.reads + 1 ∧ SameButStep s t ∧ (∀ a, t.table.read? a = s.table.read? a))

/-- `FULL V` (42 R150, R156): its word; outside `PASS2` it sets `ERR_SEQ` and nothing else; in `PASS2` the network on `AS`,
`S1`, `S2`, the slot's word and the widened byte, then the rotation, the count, and what stays. -/
def Obligations.FullAbsorbsByte : Prop :=
  ∀ (v : Byte) (s : State) (idx : Slot), idx.val = s.cnt.toNat % 32 →
    (∀ w : Reg, decode w = .ok (.full v) ↔ w = 0x40000000#32 ||| v.setWidth 32)
      ∧ (s.phase ≠ .pass2 → exec (.full v) s = .next { s with errors := { s.errors with seq := true } })
      ∧ (s.phase = .pass2 → ∃ t, exec (.full v) s = .next t
        ∧ (let b : Nat → Word → Byte := fun n x =>
             s.tableRead n (BitVec.ofNat 32 (x.toNat % 2 ^ s.mapBits.toNat))
           let r := (Config.params.fullMix.run b ⟨s.s1, s.acc, s.s2, s.hs[idx], v.setWidth 64⟩ s.reads).1
           t.acc = r.a ∧ t.hs[idx] = r.h ∧ (∀ j : Slot, j ≠ idx → t.hs[j] = s.hs[j])
             ∧ t.s1 = s.s3 ∧ t.s2 = r.s1 ∧ t.s3 = r.s2)
        ∧ t.cnt = s.cnt + 1 ∧ t.reads = s.reads + Config.params.fullMix.lookups ∧ SameButStep s t
        ∧ (∀ a, t.table.read? a = s.table.read? a))

/-- `FINAL` in `PASS2` with equal counts (43 R170 to R172): slots 31 down to 0, each iteration a full step on the slot's
own word and then its digest byte. `σ (i+1)` is the state before iteration `i` and `σ i` the state after it. -/
def Obligations.FinalRunsSlotsDownward : Prop :=
  ∀ s : State, s.phase = .pass2 → s.cnt = s.len1 →
    ∃ (σ : Nat → State) (t : State), exec .final s = .next t ∧ σ 32 = s
      ∧ (∀ i : Slot,
          let x := σ (i.val + 1)
          let y := fullStep Config.params x.hs[i] i x
          let b : Nat → Word → Byte := fun n w => s.tableRead n (BitVec.ofNat 32 (w.toNat % 2 ^ s.mapBits.toNat))
          σ i.val = { y with digest := (σ i.val).digest, reads := y.reads + 2 }
            ∧ (σ i.val).digest[i] = b y.reads y.acc ^^^ b (y.reads + 1) y.hs[i]
            ∧ (∀ j : Slot, j ≠ i → (σ i.val).digest[j] = x.digest[j])
            ∧ x.hs[i] = s.hs[i]
            ∧ t.digest[i] = (σ i.val).digest[i])
      ∧ t = { σ 0 with phase := .done }

/-- What a completed `FINAL` changes (43 R170): `PHASE`, the datapath, `DIGEST` and nothing else; it makes 32 L + 64 table
reads. -/
def Obligations.FinalFrame : Prop :=
  ∀ s : State, s.phase = .pass2 → s.cnt = s.len1 →
    ∃ t, exec .final s = .next t ∧ t.phase = .done ∧ t.cnt = s.cnt ∧ t.len1 = s.len1 ∧ t.mapBits = s.mapBits
      ∧ t.busy = s.busy ∧ t.pend = s.pend ∧ t.errors = s.errors ∧ t.dbgSel = s.dbgSel
      ∧ (∀ a, t.table.read? a = s.table.read? a) ∧ t.table = s.table ∧ t.past = s.past
      ∧ t.readsAtInit = s.readsAtInit ∧ t.events = s.events ∧ t.replies = s.replies
      ∧ t.reads = s.reads + (32 * Config.params.fullMix.lookups + 64)

/-- `FINAL` in `PASS2` with other counts (43 R173): `ERR_LEN` and nothing else. -/
def Obligations.FinalLengthCheck : Prop :=
  ∀ s : State, s.phase = .pass2 → s.cnt ≠ s.len1 →
    exec .final s = .next { s with errors := { s.errors with len := true } }

/-- The rotation (41 R133): parallel, and a 3-cycle. -/
def Obligations.RotateIsThreeCycle : Prop :=
  ∀ s : State, s.rotate.s1 = s.s3 ∧ s.rotate.s2 = s.s1 ∧ s.rotate.s3 = s.s2 ∧ s.rotate.rotate.rotate = s

/-- The injected part of the fast step is confined to bits 27:0 (41 R131). -/
def Obligations.InjectionConfined : Prop :=
  ∀ v bb : Byte, injection (v.setWidth 64) (bb.setWidth 64) >>> 28 = 0

/-- Short inputs leave the rotating registers at zero (41 R136): after `INIT K` and at most 32 `FAST` commands, `S1`, `S2`
and `S3` are 0, slot `i` below the length holds `AS` as byte `i` left it, and the others hold 0. The rule's "`CNT` below 32"
is read as the first 32 bytes (log 28). -/
def Obligations.ShortInputsKeepRegistersZero : Prop :=
  ∀ (s : State) (k : BitVec 6) (x : List Byte), mapBitsLegal k = true → x.length ≤ 32 →
    ∃ t, runInstrs (.init k :: x.map .fast) s = .next t ∧ t.s1 = 0 ∧ t.s2 = 0 ∧ t.s3 = 0
      ∧ (∀ i : Slot, x.length ≤ i.val → t.hs[i] = 0)
      ∧ (∀ i : Slot, i.val < x.length →
          ∃ u, runInstrs (.init k :: (x.take (i.val + 1)).map .fast) s = .next u ∧ t.hs[i] = u.acc)

/-- The full step depends on its operands only (42 R151): two states that agree on `AS`, `S1`, `S2`, on the words of the
slots used and on what the table answers get the same results, whatever their `S3`, their other slots, their counters,
their phases, their host registers, and the slots' numbers; and the step writes none of these, `S3` taking part only in the
rotation. -/
def Obligations.FullStepReadsItsOperandsOnly : Prop :=
  ∀ (p : Params) (v : Word) (i i' : Slot) (s s' : State),
    s'.acc = s.acc → s'.s1 = s.s1 → s'.s2 = s.s2 → s'.hs[i'] = s.hs[i] → s'.mapBits = s.mapBits →
      s'.table = s.table → s'.past = s.past → s'.reads = s.reads →
        (fullStep p v i' s').acc = (fullStep p v i s).acc ∧ (fullStep p v i' s').s2 = (fullStep p v i s).s2
          ∧ (fullStep p v i' s').s3 = (fullStep p v i s).s3
          ∧ (fullStep p v i' s').hs[i'] = (fullStep p v i s).hs[i]
          ∧ (∀ j : Slot, j ≠ i' → (fullStep p v i' s').hs[j] = s'.hs[j])
          ∧ (fullStep p v i' s').s1 = s'.s3 ∧ (fullStep p v i' s').cnt = s'.cnt ∧ SameButStep s' (fullStep p v i' s')

/-- Every network of the model assigns the state slot exactly once, from shifted `s1`, `a` and `h`, with the old `h` among its
terms (42 R154). That there is no lookup in it, and at least one `s1` or `a` term, is the model's reading (log 11). -/
def Obligations.NetworkAssignsSlotOnce : Prop :=
  ∀ m : FullMix, ∃ x, m.assignments.filter (fun y => y.target = .h) = [x]
    ∧ (∀ t ∈ x.terms, ∃ c : Shift, t = .plain ⟨.s1, c⟩ ∨ t = .plain ⟨.a, c⟩ ∨ t = .plain ⟨.h, c⟩)
    ∧ (∃ c : Shift, Term.plain ⟨.h, c⟩ ∈ x.terms) ∧ ∃ c : Shift, Term.plain ⟨.s1, c⟩ ∈ x.terms ∨ Term.plain ⟨.a, c⟩ ∈ x.terms

/-- The block order of what a full step runs (42 R153): apart from the slot's assignment, the network's assignments are
`S1a`, `ASa`, `S1b`, `ASb` and `S2`, each one or more assignments of its value, then `F1` once, which is `s1 <- G(s2) ^ h ^ v`,
then `F2` once. Each block's shifted terms read what R153 lists for it, and the `S1` blocks' lookup keys as well. That R153's
lists are all that these read, that `h` and `v` are unshifted in `F1`, and that `G` is shifts of `s2` without a lookup, is
the model's reading (log 11). -/
def Obligations.NetworkBlockOrder : Prop :=
  ∀ m : FullMix,
    (∀ b w n, m.run b w n = runAssignments b m.assignments w n)
      ∧ ∃ (s1a asa s1b asb s2 : List Assignment) (f1 f2 : Assignment) (g : List Shift),
        m.assignments.filter (fun x => x.target ≠ .h) = s1a ++ asa ++ s1b ++ asb ++ s2 ++ [f1, f2]
          ∧ s1a ≠ [] ∧ asa ≠ [] ∧ s1b ≠ [] ∧ asb ≠ [] ∧ s2 ≠ [] ∧ g ≠ []
          ∧ (∀ x ∈ s1a ++ s1b, x.target = .s1 ∧ x.ReadsOnly [.s1, .a] [.a, .s1, .v])
          ∧ (∀ x ∈ asa ++ asb, x.target = .a ∧ x.ReadsOnly [.a, .s1] [.s1, .a, .s2, .h, .v])
          ∧ (∀ x ∈ s2, x.target = .s2 ∧ x.ReadsOnly [.s1, .a, .s2] [.s1, .a, .s2, .h, .v])
          ∧ f1.target = .s1
          ∧ f1.terms = g.map (fun c => .plain ⟨.s2, c⟩) ++ [.plain ⟨.h, ⟨.left, 0⟩⟩, .plain ⟨.v, ⟨.left, 0⟩⟩]
          ∧ f2.target = .a ∧ f2.ReadsOnly [.s1, .s2, .h, .a] [.s1, .a, .s2, .h, .v]

/-- Pass 2 depends on pass 1 only through the carried state (42 R157), for a table that stays (20 R68, R69): from two states
that agree on the datapath, the count, `MASK` and the table, the same bytes give the same datapath. -/
def Obligations.Pass2DependsOnCarriedState : Prop :=
  ∀ (x : List Byte) (s s' : State), s.phase = .pass2 → s'.phase = .pass2 → SameDatapath s s' → s'.cnt = s.cnt →
    s'.mapBits = s.mapBits → s'.table = s.table → s.TableStable → s'.TableStable →
      ∃ t t', runInstrs (x.map .full) s = .next t ∧ runInstrs (x.map .full) s' = .next t' ∧ SameDatapath t t'

/-- The machine computes the source's function (43 R175). The command writes of `DIGEST K, x`, from any state with `BUSY = 0`,
raise no error and end in `DONE`, whatever the table and however reads, polls, completions and changes of the table fall
before, among and after them. If the table that the changes before them (`pre`) leave holds `2^K` bytes and nothing changes it
from then on, they end with the source's digest of that table, whatever the places of the reads, polls and completions
(93 U8). -/
def Obligations.DigestProgramComputesDigest : Prop :=
  ∀ (s : State) (k : BitVec 6) (x : List Byte), 1 ≤ k.toNat → k.toNat ≤ 32 → s.busy = false →
    ∀ pre es : List Event, s.events = pre ++ es → (∀ e ∈ pre, e.isBystander = true) →
      es.filter (fun e => !e.isBystander) = digestProgram k x →
        ∃ t, Host.Core.run core (eventsCost s.events + (2 * x.length + 3)) s = .next t ∧ t.events = [] ∧ t.busy = false
          ∧ t.phase = .done ∧ t.errors = s.errors ∧ t.len1 = BitVec.ofNat 32 x.length
          ∧ ((∀ e ∈ es, e.changesTable = false) → 2 ^ k.toNat ≤ (tableAfter s.table pre).size →
            t.digest = Reference.digest Config.params (tableAfter s.table pre).byteAt k.toNat x)

/-! ### Phases and errors (files 10 and 60) -/

/-- The encoding of the phase, and how commands change it (10 R25). -/
def Obligations.PhaseTransitions : Prop :=
  [Phase.idle, .pass1, .pass2, .done].map Phase.code = [0, 1, 2, 3] ∧ ∀ (i : Instr) (s : State), ∃ t, exec i s = .next t
    ∧ t.phase =
        match i with
        | .init k => if 1 ≤ k.toNat ∧ k.toNat ≤ 32 then .pass1 else .idle
        | .pass2 => if s.phase = .pass1 then .pass2 else s.phase
        | .final => if s.phase = .pass2 ∧ s.cnt = s.len1 then .done else s.phase
        | .nop => s.phase
        | .fast _ => s.phase
        | .full _ => s.phase

/-- Errors (60 R192, R193), for a command word in flight that completes, however its completion comes about: an illegal word
raises `ILL` whatever the phase; a command raises the first error of its list that applies, the phase before the operand and
the counts; it then changes only that error's bit, and `PHASE <- IDLE` for `CFG`; a command that meets no error changes no
error bit. That a poll out of busy reads and an empty list of events force the completion is log 2. -/
def Obligations.ErrorsPreciseAndPrioritised : Prop :=
  ∀ (s : State) (es : List Event), s.Completes es →
    let u : State := { s with busy := false, events := es }
    match decode s.pend with
    | .error _ => step s = .next { u with errors := { s.errors with ill := true } }
    | .ok i =>
      match errorOf i s with
      | none => ∃ t, step s = .next t ∧ t.errors = s.errors
      | some .ill => False
      | some .seq => step s = .next { u with errors := { s.errors with seq := true } }
      | some .cfg => step s = .next { u with phase := .idle, errors := { s.errors with cfg := true } }
      | some .len => step s = .next { u with errors := { s.errors with len := true } }

/-- Illegal encodings (30 R96): a word in flight whose `OP` is in `0x6..0xF`, or whose `OP` is defined and which has a
nonzero must-be-zero bit of its format, completes by setting `ERR_ILL` and changes nothing else, whatever the phase and
however its completion comes about. That a poll out of busy reads and an empty list of events force it is log 2. -/
def Obligations.IllegalWordRaisesIllOnly : Prop :=
  ∀ (s : State) (es : List Event), s.Completes es →
    (6 ≤ s.pend.toNat / 2 ^ 28
      ∨ (s.pend.toNat / 2 ^ 28 ∈ [0, 3, 5] ∧ s.pend.toNat % 2 ^ 28 ≠ 0)
      ∨ (s.pend.toNat / 2 ^ 28 = 1 ∧ s.pend.toNat % 2 ^ 28 / 2 ^ 6 ≠ 0)
      ∨ (s.pend.toNat / 2 ^ 28 ∈ [2, 4] ∧ s.pend.toNat % 2 ^ 28 / 2 ^ 8 ≠ 0)) →
    step s = .next { s with busy := false, events := es, errors := { s.errors with ill := true } }

/-- Error bits are sticky (10 R33, 60 R194): a step that clears one takes the reset event or serves a host write of a 1 to
that bit's place in `STATUS`. -/
def Obligations.ErrorBitsSticky : Prop :=
  ∀ (s t : State) (e : ErrorCode), step s = .next t → s.errors.get e = true → t.errors.get e = false →
    ∃ es, s.events = .reset :: es
      ∨ ∃ (a : Access) (v : Reg), s.events = .access a :: es ∧ s.busy = false ∧ a.op = .write v
          ∧ a.wellFormed = true ∧ registerAt (windowOffset a.addr) = .status ∧ v.getLsbD e.position = true

/-- The datapath changes only in the step that completes an `INIT`, `FAST`, `FULL` or `FINAL`, or at reset (10 R36, 40
R114). -/
def Obligations.DatapathChangesByCommandsOnly : Prop :=
  ∀ s t : State, step s = .next t → ¬ SameDatapath s t →
    (∃ es, s.events = .reset :: es)
      ∨ (s.busy = true ∧ t.busy = false
        ∧ ((∃ k, decode s.pend = .ok (.init k)) ∨ (∃ v, decode s.pend = .ok (.fast v))
          ∨ (∃ v, decode s.pend = .ok (.full v)) ∨ decode s.pend = .ok .final))

/-- `DIGEST` changes only in the step that completes an `INIT` or a `FINAL`, or at reset (10 R31, R36). -/
def Obligations.DigestChangesAtInitAndFinalOnly : Prop :=
  ∀ s t : State, step s = .next t → t.digest ≠ s.digest →
    (∃ es, s.events = .reset :: es)
      ∨ (s.busy = true ∧ t.busy = false ∧ ((∃ k, decode s.pend = .ok (.init k)) ∨ decode s.pend = .ok .final))

/-- No command writes the table, at any index, nor the host's side or the debug selector (20 R67, 10 R34). -/
def Obligations.CommandsLeaveTableAndHost : Prop :=
  ∀ (i : Instr) (s : State), ∃ t, exec i s = .next t ∧ (∀ a, t.table.read? a = s.table.read? a) ∧ t.table = s.table
    ∧ t.past = s.past ∧ t.dbgSel = s.dbgSel ∧ t.busy = s.busy ∧ t.pend = s.pend ∧ t.readsAtInit = s.readsAtInit
    ∧ t.events = s.events ∧ t.replies = s.replies

/-! ### Invariants of every step (10 R36) -/

/-- Every step keeps the phase invariants of 10 R36, items 2 to 4. -/
def Obligations.PhaseInvariantKept : Prop := ∀ s t : State, s.PhaseInv → step s = .next t → t.PhaseInv

/-- Every step keeps every table the state holds in canonical form. The form is the model's (log 7), and so is the list of
the tables that stood at the port (log 9). -/
def Obligations.MemoryCanonicalKept : Prop := ∀ s t : State, s.MemoryWf → step s = .next t → t.MemoryWf

/-- Every step keeps `DIGEST` at 0 in `PASS1` and `PASS2` (70 R216). -/
def Obligations.DigestClearKept : Prop := ∀ s t : State, s.DigestClear → step s = .next t → t.DigestClear

/-- The invariants hold at reset. What the memory holds then is the model's choice: no table is bound (log 6), in the form of
log 7, and none stood there before (log 24). -/
def Obligations.ResetMeetsInvariants : Prop :=
  State.reset.PhaseInv ∧ State.reset.MemoryWf ∧ State.reset.DigestClear

/-! ### The machine's steps (files 10, 20, 60, 70) -/

/-- The completion step runs the decoded command with `BUSY` cleared (10 R32, 30 R95): when the sequencer reaches it, when
the next access is held, when a poll has no busy read left, and when nothing else is left to happen. That the last two force
the completion is the model's choice (logs 2 and 26). -/
def Obligations.StepRunsDecodedCommand : Prop :=
  ∀ (s : State) (i : Instr), s.busy = true → decode s.pend = .ok i →
    (∀ es, s.events = .complete :: es → step s = exec i { s with busy := false, events := es })
      ∧ (∀ es a, s.events = .access a :: es → heldWhileBusy a = true → step s = exec i { s with busy := false })
      ∧ (∀ es, s.events = .poll 0 :: es → step s = exec i { s with busy := false })
      ∧ (s.events = [] → step s = exec i { s with busy := false })

/-- A command word put in flight by `withFetchWord` is what the very next step runs. -/
def Obligations.FetchedWordRunsNext : Prop :=
  ∀ (s : State) (w : Nat) (i : Instr), w < 2 ^ 32 → decode (BitVec.ofNat 32 w) = .ok i →
    step (s.withFetchWord 32 w) = exec i { s with busy := false, pend := BitVec.ofNat 32 w }

/-- Accepting a `CMD` write (10 R32): with `BUSY = 0` it sets `BUSY` and `PEND`, the bus gets OKAY, and nothing of the
command is visible yet. -/
def Obligations.CommandWriteAccepted : Prop :=
  ∀ (s : State) (w : Reg) (es : List Event), s.busy = false → s.events = commandWrite w :: es →
    ∃ t, step s = .next t ∧ t.busy = true ∧ t.pend = w ∧ t.events = es ∧ t.replies = ⟨.okay, none⟩ :: s.replies
      ∧ SameDatapath s t ∧ t.phase = s.phase ∧ t.mapBits = s.mapBits ∧ t.cnt = s.cnt ∧ t.len1 = s.len1
      ∧ t.digest = s.digest ∧ t.errors = s.errors ∧ t.dbgSel = s.dbgSel ∧ t.table = s.table ∧ t.reads = s.reads

/-- The busy hold (70 R214): while a command is in flight, an aligned 32-bit read of `ID` or `STATUS` is answered at once
with the state from before the command and `BUSY = 1`, and every other access waits until the command has completed. That a
malformed access waits too is the model's reading (log 15). `POLL` (30 R100) is such reads of `STATUS`: one answer and one busy
read fewer while the command is in flight, no answer in the step that completes it, and with `BUSY = 0` an answer that ends the
poll. That a poll carries the number of its busy reads, and forces the completion after them, is logs 2 and 26. -/
def Obligations.BusyHold : Prop :=
  (∀ (s : State) (a : Access) (es : List Event), s.busy = true → s.events = .access a :: es →
    (a.op = .read → a.wellFormed = true → registerAt (windowOffset a.addr) = .id →
        step s = .next { s with events := es, replies := ⟨.okay, some 0x4C585201#32⟩ :: s.replies })
      ∧ (a.op = .read → a.wellFormed = true → registerAt (windowOffset a.addr) = .status →
        ∃ d, step s = .next { s with events := es, replies := ⟨.okay, some d⟩ :: s.replies }
          ∧ d = statusWord { s with busy := false } ||| 1#32)
      ∧ (¬ (a.op = .read ∧ a.wellFormed = true
            ∧ (registerAt (windowOffset a.addr) = .id ∨ registerAt (windowOffset a.addr) = .status)) →
        ∃ t, step s = .next t ∧ t.busy = false ∧ t.events = s.events ∧ t.replies = s.replies))
    ∧ ∀ (s : State) (n : Nat) (es : List Event), s.events = .poll n :: es →
      (∀ m, s.busy = true → n = m + 1 →
        ∃ d, step s = .next { s with events := .poll m :: es, replies := ⟨.okay, some d⟩ :: s.replies }
          ∧ d = statusWord { s with busy := false } ||| 1#32)
        ∧ (s.busy = true → n = 0 →
          ∃ t, step s = .next t ∧ t.busy = false ∧ t.events = s.events ∧ t.replies = s.replies)
        ∧ (s.busy = false →
          ∃ d, step s = .next { s with events := es, replies := ⟨.okay, some d⟩ :: s.replies }
            ∧ d = s.regRead .status ∧ d.getLsbD 0 = false)

/-- The block never stops: every state has a next state (60 R190, R193). That no fault and no refusal exists is the model's
choice of log entry 23. -/
def Obligations.EveryStepGoesOn : Prop := ∀ s : State, ∃ t, step s = .next t

/-- Every accepted command completes unless a reset abandons it (70 R210, R214, R220): with no reset ahead, its completion step
is reached within as many steps as the events ahead of it can take, with its word still in flight, and clears `BUSY`. Rests
on the liveness assumption of 20 R70 (log 3); that an empty list of events brings the completion about is log 2. -/
def Obligations.AcceptedCommandsComplete : Prop :=
  ∀ s : State, s.busy = true → .reset ∉ s.events →
    ∃ k u es t, k ≤ eventsCost s.events ∧ Host.Core.run core k s = .next u ∧ u.pend = s.pend ∧ u.Completes es
      ∧ completeCommand { u with events := es } = .next t ∧ step u = .next t ∧ t.busy = false

/-- What reset leaves (10 R49, 70 R211): every value of the table. -/
def Obligations.ResetValues : Prop :=
  (∀ i : Slot, State.reset.hs[i] = 0) ∧ State.reset.acc = 0xFAFAECECFAFAECEC#64 ∧ State.reset.s1 = 0
    ∧ State.reset.s2 = 0 ∧ State.reset.s3 = 0 ∧ State.reset.phase = .idle ∧ State.reset.mapBits = 0
    ∧ State.reset.cnt = 0 ∧ State.reset.len1 = 0 ∧ (∀ j : Slot, State.reset.digest[j] = 0)
    ∧ State.reset.busy = false ∧ State.reset.pend = 0 ∧ State.reset.errors = ⟨false, false, false, false⟩
    ∧ State.reset.dbgSel = 0 ∧ maskOf State.reset.mapBits = 0 ∧ State.reset.regRead .id = 0x4C585201#32 ∧ State.reset.regRead .status = 0

/-- The reset event (70 R210), busy or not: every piece of the block's state takes its reset value, the command in flight is
abandoned, and the table is not touched. -/
def Obligations.ResetEventResets : Prop :=
  ∀ (s : State) (es : List Event), s.events = .reset :: es →
    ∃ t, step s = .next t ∧ SameDatapath State.reset t ∧ t.phase = .idle ∧ t.mapBits = 0 ∧ t.cnt = 0 ∧ t.len1 = 0
      ∧ t.digest = State.reset.digest ∧ t.busy = false ∧ t.pend = 0 ∧ t.errors = ⟨false, false, false, false⟩
      ∧ t.dbgSel = 0 ∧ t.table = s.table ∧ t.events = es ∧ t.replies = s.replies ∧ t.reads = s.reads

/-! ### The register window (file 10 section 3, file 20) -/

/-- `STATUS` (10 R41): its offset, what each field of a read holds, and what a write clears. -/
def Obligations.StatusRegister : Prop :=
  registerAt 0x04 = .status ∧ State.reset.regRead .status = 0 ∧ ∀ (s : State) (w : Reg),
    (let d := s.regRead .status
     d.getLsbD 0 = s.busy ∧ d.extractLsb' 1 2 = s.phase.code ∧ d.getLsbD 3 = false
       ∧ d.extractLsb' 4 6 = s.mapBits ∧ d.extractLsb' 10 6 = 0 ∧ d.getLsbD 16 = s.errors.ill
       ∧ d.getLsbD 17 = s.errors.seq ∧ d.getLsbD 18 = s.errors.cfg ∧ d.getLsbD 19 = s.errors.len
       ∧ d.extractLsb' 20 4 = 0 ∧ d.extractLsb' 24 5 = s.cnt.extractLsb' 0 5 ∧ d.extractLsb' 29 3 = 0)
      ∧ s.regWrite w .status =
          { s with errors := ⟨s.errors.ill && !w.getLsbD 16, s.errors.seq && !w.getLsbD 17,
                              s.errors.cfg && !w.getLsbD 18, s.errors.len && !w.getLsbD 19⟩ }

/-- The debug window (10 R45, R46): its offsets, and the two halves of the word `DBG_SEL` selects, for all 64 selector
values. -/
def Obligations.DebugWindow : Prop :=
  registerAt 0x14 = .dbgSel ∧ registerAt 0x18 = .dbgLo ∧ registerAt 0x1C = .dbgHi
    ∧ State.reset.regRead .dbgSel = 0 ∧ ∀ s : State,
    (s.regRead .dbgHi ++ s.regRead .dbgLo : BitVec 64) =
        (if h : s.dbgSel.toNat ≤ 31 then s.hs[s.dbgSel.toNat]
         else if s.dbgSel.toNat = 32 then s.acc
         else if s.dbgSel.toNat = 33 then s.s1
         else if s.dbgSel.toNat = 34 then s.s2
         else if s.dbgSel.toNat = 35 then s.s3
         else 0)
      ∧ ∀ w : Reg, (s.regWrite w .dbgSel).regRead .dbgSel = w &&& 0x3F#32

/-- `DIGESTn` (10 R47): the register stands at `0x20 + 4n`, bits `8j+7 : 8j` hold digest byte `4n+j`, and it reads 0 after
reset. -/
def Obligations.DigestRegisterBytes : Prop :=
  ∀ (s : State) (n : Fin 8) (j : Fin 4),
    registerAt (BitVec.ofNat 7 (0x20 + 4 * n.val)) = .digest n
      ∧ (s.regRead (.digest n)).extractLsb' (8 * j.val) 8 = s.digest[4 * n.val + j.val]
      ∧ State.reset.regRead (.digest n) = 0

/-- The other registers (10 R40, R42 to R44, R48): what a read of each offset returns, that `COUNT` and `LEN1` read 0 after
reset, and that a write of any of these but `CMD` is ignored. -/
def Obligations.ReadOnlyRegisters : Prop :=
  State.reset.regRead (registerAt 0x0C) = 0 ∧ State.reset.regRead (registerAt 0x10) = 0 ∧ ∀ (s : State) (w : Reg),
    s.regRead (registerAt 0x00) = 0x4C585201#32 ∧ s.regWrite w (registerAt 0x00) = s
      ∧ s.regRead (registerAt 0x08) = 0
      ∧ s.regRead (registerAt 0x0C) = s.cnt ∧ s.regWrite w (registerAt 0x0C) = s
      ∧ s.regRead (registerAt 0x10) = s.len1 ∧ s.regWrite w (registerAt 0x10) = s
      ∧ (∀ off : BitVec 7, 0x40 ≤ off.toNat → s.regRead (registerAt off) = 0 ∧ s.regWrite w (registerAt off) = s)

/-- Host writes (20 R63): with `BUSY = 0`, an aligned 32-bit write of any offset gets OKAY; `CMD` puts the word in flight,
`STATUS` clears the error bits its 1s name, `DBG_SEL` takes the low six bits, and any other offset has no effect. -/
def Obligations.HostRegisterWrites : Prop :=
  ∀ (s : State) (off : BitVec 7) (v : Reg) (es : List Event), s.busy = false → off.toNat % 4 = 0 →
    s.events = registerWrite off v :: es →
      (off = 0x08 → ∃ t, step s = .next t ∧ t.busy = true ∧ t.pend = v ∧ t.replies = ⟨.okay, none⟩ :: s.replies)
        ∧ (off = 0x04 →
            step s = .next { s with
              events := es
              replies := ⟨.okay, none⟩ :: s.replies
              errors := ⟨s.errors.ill && !v.getLsbD 16, s.errors.seq && !v.getLsbD 17,
                         s.errors.cfg && !v.getLsbD 18, s.errors.len && !v.getLsbD 19⟩ })
        ∧ (off = 0x14 →
            step s = .next { s with
              events := es, replies := ⟨.okay, none⟩ :: s.replies, dbgSel := v.extractLsb' 0 6 })
        ∧ (off ≠ 0x04 → off ≠ 0x08 → off ≠ 0x14 →
            step s = .next { s with events := es, replies := ⟨.okay, none⟩ :: s.replies })

/-- Host reads (20 R62): with `BUSY = 0`, an aligned 32-bit read of any offset gets OKAY and the register's value, and
changes nothing of the block. -/
def Obligations.ReadsHaveNoSideEffect : Prop :=
  ∀ (s : State) (off : BitVec 7) (es : List Event), s.busy = false → off.toNat % 4 = 0 →
    s.events = registerRead off :: es →
      step s = .next { s with events := es, replies := ⟨.okay, some (s.regRead (registerAt off))⟩ :: s.replies }

/-- Malformed accesses (20 R64): an access of another width or at an offset that is no multiple of 4 gets ERROR, a read of
it returns 0, and no state of the block changes. That the machine goes on is log entry 15. -/
def Obligations.MalformedAccessErrors : Prop :=
  ∀ (s : State) (a : Access) (es : List Event), s.busy = false → s.events = .access a :: es →
    (a.width ≠ .word ∨ a.addr % 4 ≠ 0) →
      (a.op = .read → step s = .next { s with events := es, replies := ⟨.error, some 0⟩ :: s.replies })
        ∧ (∀ v, a.op = .write v → step s = .next { s with events := es, replies := ⟨.error, none⟩ :: s.replies })

/-- The block decodes address bits 6:0 of its window, wherever `BASE` puts it (20 R61). -/
def Obligations.WindowDecodesLowBits : Prop := ∀ off : BitVec 7, windowOffset (hostAddress off) = off

/-! ### The table port (file 20) -/

/-- Index masking (41 R137, 10 R26): the index of a lookup is the operand modulo `2^K`, so it is in range. -/
def Obligations.LookupIndexInRange : Prop :=
  ∀ (k : BitVec 6) (x : Word), 1 ≤ k.toNat → k.toNat ≤ 32 →
    (maskOf k).toNat = 2 ^ k.toNat - 1 ∧ (tableIndex k x).toNat = x.toNat % 2 ^ k.toNat
      ∧ (tableIndex k x).toNat < 2 ^ k.toNat

/-- `CNT[4:0]` is the byte index modulo 32 at every length (10 R27). -/
def Obligations.SlotIsByteIndexMod32 : Prop := ∀ n : Nat, (slotOf (BitVec.ofNat 32 n)).val = n % 32

/-- A lookup in a table that stays and has `2^K` bytes returns the table's byte at `x mod 2^K`, whatever its number (20 R67,
R68). -/
def Obligations.StableLookupReadsTheTable : Prop :=
  ∀ (s : State) (n : Nat) (x : Word), s.TableStable → mapBitsLegal s.mapBits = true →
    s.table.read? (x.toNat % 2 ^ s.mapBits.toNat) = some (s.lookup n x)

/-- A lookup in a table that changed since `INIT` returns the byte of one of the tables that stood at the port (20 R69). -/
def Obligations.RacedLookupIsOldOrNew : Prop :=
  ∀ (s : State) (n : Nat) (i : BitVec 32), (∀ m ∈ s.table :: s.past, i.toNat < m.size) →
    ∃ m ∈ s.table :: s.past, m.read? i.toNat = some (s.tableRead n i)

/-- Only the host's events change the table (20 R67). -/
def Obligations.OnlyHostChangesTable : Prop :=
  ∀ s t : State, step s = .next t → t.table ≠ s.table →
    ∃ es, (∃ i v, s.events = .writeTable i v :: es) ∨ ∃ size cells, s.events = .bindTable size cells :: es

/-- A write into the table memory (20 R69) changes the one byte, leaves every other byte and the block's registers, and
lets the old table answer later lookups. -/
def Obligations.TableWriteRaces : Prop :=
  ∀ (s : State) (i : Nat) (v : Byte) (es : List Event), s.events = .writeTable i v :: es → s.table.wf = true →
    ∃ t, step s = .next t
      ∧ (∀ a, t.table.read? a = if a = i ∧ i < s.table.size then some v else s.table.read? a)
      ∧ t = { s with events := es, table := t.table, past := s.table :: s.past }

/-- Binding a table (30 R100): where none is bound, none was since `INIT` was accepted, and no table byte was read since nor is
a command in flight that reads one, it is the table the digest waits for (40 R111, 70 R212); otherwise the table that stood
there may still answer (20 R69). The block's registers stay. Where the line lies between the two is log 10. -/
def Obligations.TableBinding : Prop :=
  ∀ (s : State) (size : Nat) (cells : List Host.Cell) (es : List Event), s.events = .bindTable size cells :: es →
    let waits := s.table.size = 0 ∧ s.past = [] ∧ s.reads = s.readsAtInit
      ∧ ¬ (s.busy = true ∧ readsTableWord s.pend = true)
    (waits → step s = .next { s with events := es, table := Memory.ofCells size cells, past := [] })
      ∧ (¬ waits →
        step s = .next { s with events := es, table := Memory.ofCells size cells, past := s.table :: s.past })

/-- A bound table has its size (within the port's 2^32 indices, 20 R66), holds at each index the last byte given for it, and
0 where none is given (log 7). -/
def Obligations.BoundTableHoldsItsBytes : Prop :=
  ∀ (size : Nat) (cells : List Host.Cell) (i : Nat), size ≤ 2 ^ 32 →
    (i < size → (Memory.ofCells size cells).read? i =
        some (((cells.reverse.find? (fun c => c.1 == i)).map (fun c => c.2)).getD 0))
      ∧ (size ≤ i → (Memory.ofCells size cells).read? i = none)

/-- Accepting an `INIT` word starts the interval in which the table must stay (20 R69): from then on only the table at the
port answers, until it changes. That the earlier tables are forgotten at that moment is log entry 10. -/
def Obligations.AcceptedInitStartsTableInterval : Prop :=
  ∀ (s : State) (k : BitVec 6) (es : List Event), s.busy = false → s.events = commandWrite (encode (.init k)) :: es →
    ∃ t, step s = .next t ∧ t.table = s.table ∧ ∀ n i, t.tableRead n i = s.table.answer n i

/-- Canonical memories with the same size and bytes are equal. -/
def Obligations.CanonicalMemoryExt : Prop :=
  ∀ m m' : Memory, m.wf = true → m'.wf = true → m'.size = m.size → (∀ i, m'.read? i = m.read? i) → m' = m

/-! ### The network's interpreter (file 42) -/

/-- What a list of assignments computes (42 R152, 00 R9 to R11), for a lookup `b`: the assignments run first to last, each on
the values that the earlier ones left, and each writes its one value; a right-hand side is the XOR of its terms; a term is a
value logically shifted left or right, or the looked-up byte, widened and shifted left; a key is an XOR of shifted values. The
numbers that the lookups take are the model's own (log 12). -/
def Obligations.NetworkComputesXorOfTerms : Prop :=
  ∀ (b : Nat → Word → Byte) (w : Work) (n : Nat),
    runAssignments b [] w n = (w, n)
      ∧ (∀ (t : Target) (ts : List (Term Src Src)) (xs : List Assignment),
          runAssignments b (⟨t, ts⟩ :: xs) w n =
            runAssignments b xs (w.put t (evalTerms b w ts n).1) (evalTerms b w ts n).2)
      ∧ evalTerms b w [] n = (0, n)
      ∧ (∀ (src : Src) (c : Fin 64) (ts : List (Term Src Src)),
          evalTerms b w (.plain ⟨src, ⟨.left, c⟩⟩ :: ts) n =
              ((w.get src <<< c.val) ^^^ (evalTerms b w ts n).1, (evalTerms b w ts n).2)
            ∧ evalTerms b w (.plain ⟨src, ⟨.right, c⟩⟩ :: ts) n =
              ((w.get src >>> c.val) ^^^ (evalTerms b w ts n).1, (evalTerms b w ts n).2))
      ∧ (∀ (key : Chain (Shifted Src)) (c : Fin 64) (ts : List (Term Src Src)),
          evalTerms b w (.lookup key c :: ts) n =
            (((b n (keyOf w (key.first :: key.rest))).setWidth 64 <<< c.val) ^^^ (evalTerms b w ts (n + 1)).1,
              (evalTerms b w ts (n + 1)).2))
      ∧ keyOf w [] = 0
      ∧ (∀ (src : Src) (c : Fin 64) (ys : List (Shifted Src)),
          keyOf w (⟨src, ⟨.left, c⟩⟩ :: ys) = (w.get src <<< c.val) ^^^ keyOf w ys
            ∧ keyOf w (⟨src, ⟨.right, c⟩⟩ :: ys) = (w.get src >>> c.val) ^^^ keyOf w ys)
      ∧ (w.get .s1 = w.s1 ∧ w.get .a = w.a ∧ w.get .s2 = w.s2 ∧ w.get .h = w.h ∧ w.get .v = w.v)
      ∧ ∀ x : Word, w.put .s1 x = { w with s1 := x } ∧ w.put .a x = { w with a := x } ∧ w.put .s2 x = { w with s2 := x }
        ∧ w.put .h x = { w with h := x }
end

