-- ==== Sys2Proof/Laws/Memory.lean ====
section
/-! SUPPORT. The table memory: a read after a write, and that every operation keeps the canonical form. -/

namespace Sys2Proof.Machine

/-- Cells in canonical form from `lo` on give the unlisted byte to every index below `lo`. -/
theorem cellAt_of_lt {size lo : Nat} {cs : List Host.Cell} (h : cellsWf size lo cs = true) {i : Nat} (hi : i < lo) :
    cellAt cs i = Memory.unlisted := by
  induction cs generalizing lo with
  | nil => rfl
  | cons c cs ih =>
    simp only [cellsWf, Bool.and_eq_true, decide_eq_true_eq] at h
    obtain ⟨⟨⟨h1, -⟩, -⟩, h4⟩ := h
    rw [cellAt, if_neg (by omega)]
    exact ih h4 (by omega)

/-- Canonical form from a higher index is canonical form from a lower one. -/
theorem cellsWf_mono {size lo lo' : Nat} {cs : List Host.Cell} (h : cellsWf size lo cs = true) (hl : lo' ≤ lo) :
    cellsWf size lo' cs = true := by
  cases cs with
  | nil => rfl
  | cons c cs =>
    simp only [cellsWf, Bool.and_eq_true, decide_eq_true_eq] at h ⊢
    exact ⟨⟨⟨by omega, h.1.1.2⟩, h.1.2⟩, h.2⟩

/-- Writing a cell keeps the canonical form. -/
theorem putCell_wf {size lo : Nat} {cs : List Host.Cell} {i : Nat} {v : Byte} (h : cellsWf size lo cs = true)
    (hl : lo ≤ i) (hs : i < size) : cellsWf size lo (putCell cs i v) = true := by
  induction cs generalizing lo with
  | nil =>
    unfold putCell
    split
    · rfl
    · simpa [cellsWf, hl, hs] using ‹¬ _›
  | cons c cs ih =>
    simp only [cellsWf, Bool.and_eq_true, decide_eq_true_eq] at h
    obtain ⟨⟨⟨h1, h2⟩, h3⟩, h4⟩ := h
    unfold putCell
    split
    · split
      · simp [cellsWf, h1, h2, h4, bne_iff_ne.mp h3]
      · have := bne_iff_ne.mp h3
        simp_all [cellsWf]
    · split
      · subst i
        split
        · exact cellsWf_mono h4 (by omega)
        · simp_all [cellsWf]
      · simp only [cellsWf, Bool.and_eq_true, decide_eq_true_eq]
        exact ⟨⟨⟨h1, h2⟩, h3⟩, ih h4 (by omega)⟩

/-- A read after a write of the same cell gives the byte written. -/
theorem cellAt_putCell_same {size lo : Nat} {cs : List Host.Cell} (h : cellsWf size lo cs = true) (i : Nat) (v : Byte) :
    cellAt (putCell cs i v) i = v := by
  induction cs generalizing lo with
  | nil =>
    unfold putCell
    split
    · simp_all [cellAt]
    · simp [cellAt]
  | cons c cs ih =>
    simp only [cellsWf, Bool.and_eq_true, decide_eq_true_eq] at h
    obtain ⟨⟨⟨h1, h2⟩, h3⟩, h4⟩ := h
    unfold putCell
    split
    · rename_i hlt
      split
      · rename_i hv
        rw [cellAt, if_neg (by omega), hv]
        exact cellAt_of_lt h4 (by omega)
      · simp [cellAt]
    · split
      · subst i
        split
        · rename_i hv
          rw [hv]
          exact cellAt_of_lt h4 (by omega)
        · simp [cellAt]
      · rw [cellAt, if_neg (by omega)]
        exact ih h4

/-- A write of one cell leaves every other index alone. -/
theorem cellAt_putCell_other {cs : List Host.Cell} {i j : Nat} (v : Byte) (h : j ≠ i) :
    cellAt (putCell cs i v) j = cellAt cs j := by
  induction cs with
  | nil =>
    unfold putCell
    split
    · rfl
    · simp [cellAt, Ne.symm h]
  | cons c cs ih =>
    unfold putCell
    split
    · split
      · rfl
      · rw [cellAt, if_neg (by simpa using Ne.symm h)]
    · split
      · subst i
        split
        · rw [cellAt, if_neg (Ne.symm h)]
        · rw [cellAt, cellAt, if_neg (by simpa using Ne.symm h), if_neg (Ne.symm h)]
      · rw [cellAt, cellAt, ih]

@[simp] theorem Memory.write_size (m : Memory) (i : Nat) (v : Byte) : (m.write i v).size = m.size := by
  unfold Memory.write
  split <;> rfl

/-- Writing a byte keeps the canonical form. -/
theorem Memory.write_wf {m : Memory} (h : m.wf = true) (i : Nat) (v : Byte) : (m.write i v).wf = true := by
  unfold Memory.write
  split
  · rename_i hi
    simp only [Memory.wf, Bool.and_eq_true, decide_eq_true_eq] at h ⊢
    exact ⟨h.1, putCell_wf h.2 (Nat.zero_le i) hi⟩
  · exact h

/-- Binding a table gives one in canonical form. -/
theorem Memory.ofCells_wf (size : Nat) (cells : List Host.Cell) : (Memory.ofCells size cells).wf = true := by
  have : ∀ (cs : List Host.Cell) (m : Memory), m.wf = true →
      (cs.foldl (fun m c => m.write c.1 c.2) m).wf = true := by
    intro cs
    induction cs with
    | nil => exact fun m h => h
    | cons c cs ih => exact fun m h => ih _ (Memory.write_wf h _ _)
  refine this cells _ ?_
  simp only [Memory.wf, cellsWf, Bool.and_true, decide_eq_true_eq]
  omega

/-- A read after a write of the same index, inside the table, gives the byte written. -/
theorem Memory.read?_write_same {m : Memory} (h : m.wf = true) {i : Nat} (hi : i < m.size) (v : Byte) :
    (m.write i v).read? i = some v := by
  simp only [Memory.wf, Bool.and_eq_true] at h
  simp [Memory.read?, Memory.write, hi, cellAt_putCell_same h.2]

/-- A write leaves every other index alone. -/
theorem Memory.read?_write_other (m : Memory) {i j : Nat} (v : Byte) (h : j ≠ i) :
    (m.write i v).read? j = m.read? j := by
  unfold Memory.read? Memory.write
  split <;> split <;> simp_all [cellAt_putCell_other]

/-- The table after reset is in canonical form. -/
theorem State.reset_table_wf : State.reset.table.wf = true := by decide

end Sys2Proof.Machine
end

