-- ==== Sys2Proof/Laws/Network.lean ====
section
/-! SUPPORT. Running a network: how many table reads it makes, that the input word stays, and that a lookup that does not
depend on the read's number makes the result independent of the numbering. -/

namespace Sys2Proof

open Machine

variable (b : Nat → Word → Byte)

@[simp] theorem Work.put_v (w : Work) (t : Target) (x : Word) : (w.put t x).v = w.v := by
  cases t <;> rfl

/-- A term makes one read if it is a lookup and none otherwise. -/
theorem Term.eval_reads (w : Work) (n : Nat) (t : Term Src Src) :
    (t.eval b w n).2 = n + (if t.isLookup then 1 else 0) := by
  cases t <;> rfl

/-- The terms of an assignment make one read per lookup. -/
theorem evalTerms_reads (w : Work) (ts : List (Term Src Src)) (n : Nat) :
    (evalTerms b w ts n).2 = n + ts.countP Term.isLookup := by
  induction ts generalizing n with
  | nil => rfl
  | cons t ts ih =>
    rw [evalTerms, ih, Term.eval_reads, List.countP_cons]
    omega

/-- A list of assignments makes the reads of all of them. -/
theorem runAssignments_reads (xs : List Assignment) (w : Work) (n : Nat) :
    (runAssignments b xs w n).2 = n + (xs.map (fun x => x.terms.countP Term.isLookup)).sum := by
  induction xs generalizing w n with
  | nil => rfl
  | cons x xs ih =>
    rw [runAssignments, ih, evalTerms_reads, List.map_cons, List.sum_cons]
    omega

/-- One call of the network makes its `lookups` reads. -/
theorem FullMix.run_reads (m : FullMix) (w : Work) (n : Nat) : (m.run b w n).2 = n + m.lookups :=
  runAssignments_reads b m.assignments w n

/-! ### What the network leaves in `s1` (42 R153, R154) -/

/-- A list of assignments runs in two parts. -/
theorem runAssignments_append (xs ys : List Assignment) (w : Work) (n : Nat) :
    runAssignments b (xs ++ ys) w n =
      runAssignments b ys (runAssignments b xs w n).1 (runAssignments b xs w n).2 := by
  induction xs generalizing w n with
  | nil => rfl
  | cons x xs ih => exact ih _ _

/-- No assignment writes the input word. -/
theorem runAssignments_v (xs : List Assignment) (w : Work) (n : Nat) : (runAssignments b xs w n).1.v = w.v := by
  induction xs generalizing w n with
  | nil => rfl
  | cons x xs ih => rw [runAssignments, ih, Work.put_v]

/-- Assignments of other values leave `h`. -/
theorem runAssignments_h {xs : List Assignment} (hx : ∀ x ∈ xs, x.target ≠ .h) (w : Work) (n : Nat) :
    (runAssignments b xs w n).1.h = w.h := by
  induction xs generalizing w n with
  | nil => rfl
  | cons x xs ih =>
    rw [runAssignments, ih (fun y hy => hx y (List.mem_cons_of_mem _ hy))]
    have := hx x List.mem_cons_self
    cases hT : x.target <;> simp_all [Work.put]

/-- Assignments of `a` and `h` leave `s1` and `s2`. -/
theorem runAssignments_s1_s2 {xs : List Assignment} (hx : ∀ x ∈ xs, x.target = .a ∨ x.target = .h) (w : Work) (n : Nat) :
    (runAssignments b xs w n).1.s1 = w.s1 ∧ (runAssignments b xs w n).1.s2 = w.s2 := by
  induction xs generalizing w n with
  | nil => exact ⟨rfl, rfl⟩
  | cons x xs ih =>
    have := ih (fun y hy => hx y (List.mem_cons_of_mem _ hy)) (w.put x.target (evalTerms b w x.terms n).1)
      (evalTerms b w x.terms n).2
    rw [runAssignments]
    rcases hx x List.mem_cons_self with hT | hT <;> simpa [hT, Work.put] using this

/-- The XOR of shifts of one word: `G` of block `F1`. -/
def shiftXor (cs : List Shift) (x : Word) : Word := cs.foldr (fun c y => c.apply x ^^^ y) 0

/-- Shifts of 0 are 0. -/
@[simp] theorem shiftXor_zero (cs : List Shift) : shiftXor cs 0 = 0 := by
  induction cs with
  | nil => rfl
  | cons c cs ih =>
    rw [shiftXor, List.foldr_cons, ← shiftXor, ih]
    cases hd : c.dir <;> simp [Shift.apply, hd, shl, shr]

/-- Block `F1` computes `G(s2) ^ h ^ v`. -/
theorem FullMix.f1_value (m : FullMix) (w : Work) (n : Nat) :
    (evalTerms b w m.f1Assignment.terms n).1 = shiftXor m.f1.toList w.s2 ^^^ w.h ^^^ w.v := by
  rw [FullMix.f1Assignment]
  generalize m.f1.toList = cs
  induction cs generalizing n with
  | nil => simp [evalTerms, Term.eval, Shifted.eval, unshifted, Shift.apply, shl, Work.get, shiftXor]
  | cons c cs ih =>
    simp only [List.map_cons, List.cons_append, evalTerms, ih, shiftXor, List.foldr_cons, BitVec.xor_assoc]
    rfl

/-- The blocks before `F1`. -/
def FullMix.opening (m : FullMix) : List Assignment :=
  blockOf .s1 MixSrc.toSrc MixKey.toSrc m.s1a ++ blockOf .a MixSrc.toSrc id m.asa
    ++ blockOf .s1 MixSrc.toSrc MixKey.toSrc m.s1b ++ blockOf .a MixSrc.toSrc id m.asb
    ++ blockOf .s2 S2Src.toSrc id m.s2

/-- Block `F2`. -/
def FullMix.f2Assignment (m : FullMix) : Assignment :=
  ⟨.a, m.f2.toList.map (fun x => x.rename F2Src.toSrc id)⟩

theorem FullMix.blocks_eq (m : FullMix) : m.blocks = m.opening ++ [m.f1Assignment, m.f2Assignment] := by
  simp [FullMix.blocks, FullMix.opening, FullMix.f2Assignment, blockOf, Chain.toList]

theorem FullMix.opening_target (m : FullMix) : ∀ x ∈ m.opening, x.target ≠ .h := by
  intro x hx
  simp only [FullMix.opening, blockOf, List.mem_append, List.mem_map] at hx
  rcases hx with (((⟨_, _, rfl⟩ | ⟨_, _, rfl⟩) | ⟨_, _, rfl⟩) | ⟨_, _, rfl⟩) | ⟨_, _, rfl⟩ <;> simp

/-- Where the slot's assignment stands among the others: before `F1`, between `F1` and `F2`, or after `F2`. -/
theorem FullMix.assignments_cases (m : FullMix) :
    (∃ xs, m.assignments = xs ++ m.f1Assignment :: [m.f2Assignment])
      ∨ m.assignments = m.opening ++ m.f1Assignment :: [m.slotAssignment, m.f2Assignment]
      ∨ m.assignments = m.opening ++ m.f1Assignment :: [m.f2Assignment, m.slotAssignment] := by
  unfold FullMix.assignments
  rw [m.blocks_eq]
  rcases Nat.lt_or_ge m.opening.length m.slotPos with h | h
  · obtain ⟨k, hk⟩ : ∃ k, m.slotPos = m.opening.length + (k + 1) := ⟨m.slotPos - m.opening.length - 1, by omega⟩
    rw [hk, List.take_length_add_append, List.drop_length_add_append]
    cases k with
    | zero => exact .inr (.inl (by simp))
    | succ k => exact .inr (.inr (by simp))
  · refine .inl ⟨m.opening.take m.slotPos ++ m.slotAssignment :: m.opening.drop m.slotPos, ?_⟩
    rw [List.take_append_of_le_length h, List.drop_append_of_le_length h]
    simp

/-- The network ends with `s1 = G(s2) ^ h ^ v`, `h` being the slot's old word or its new one. -/
theorem FullMix.run_s1 (m : FullMix) (w : Work) (n : Nat) :
    ∃ h, (h = w.h ∨ h = (m.run b w n).1.h)
      ∧ (m.run b w n).1.s1 = shiftXor m.f1.toList (m.run b w n).1.s2 ^^^ h ^^^ w.v := by
  have split : ∀ xs ys, m.assignments = xs ++ m.f1Assignment :: ys →
      (∀ y ∈ ys, y.target = .a ∨ y.target = .h) →
      (m.run b w n).1.s1 =
        shiftXor m.f1.toList (m.run b w n).1.s2 ^^^ (runAssignments b xs w n).1.h ^^^ w.v := by
    intro xs ys hm hy
    rw [FullMix.run, hm, runAssignments_append, runAssignments, (runAssignments_s1_s2 b hy _ _).1,
      (runAssignments_s1_s2 b hy _ _).2]
    simp only [FullMix.f1_value, runAssignments_v]
    rfl
  rcases m.assignments_cases with ⟨xs, hm⟩ | hm | hm
  · refine ⟨_, .inr ?_, split _ _ hm (by simp [FullMix.f2Assignment])⟩
    rw [FullMix.run, hm, runAssignments_append]
    exact (runAssignments_h b (xs := [m.f1Assignment, m.f2Assignment])
      (by simp [FullMix.f1Assignment, FullMix.f2Assignment]) _ _).symm
  · exact ⟨_, .inl (runAssignments_h b m.opening_target w n),
      split _ _ hm (by simp [FullMix.f2Assignment, FullMix.slotAssignment])⟩
  · exact ⟨_, .inl (runAssignments_h b m.opening_target w n),
      split _ _ hm (by simp [FullMix.f2Assignment, FullMix.slotAssignment])⟩

/-! ### The numbering of the reads -/

variable {b} {f : Word → Byte} (hb : ∀ n x, b n x = f x)
include hb

/-- A term's value does not depend on the numbering of the reads. -/
theorem Term.eval_unnumbered (w : Work) (n m : Nat) (t : Term Src Src) :
    (t.eval b w n).1 = (t.eval (fun _ => f) w m).1 := by
  cases t <;> simp [Term.eval, hb]

/-- An assignment's value does not depend on the numbering of the reads. -/
theorem evalTerms_unnumbered (w : Work) (ts : List (Term Src Src)) (n m : Nat) :
    (evalTerms b w ts n).1 = (evalTerms (fun _ => f) w ts m).1 := by
  induction ts generalizing n m with
  | nil => rfl
  | cons t ts ih =>
    simp only [evalTerms]
    rw [Term.eval_unnumbered hb w n m t, ih]

/-- The working values do not depend on the numbering of the reads. -/
theorem runAssignments_unnumbered (xs : List Assignment) (w : Work) (n m : Nat) :
    (runAssignments b xs w n).1 = (runAssignments (fun _ => f) xs w m).1 := by
  induction xs generalizing w n m with
  | nil => rfl
  | cons x xs ih =>
    simp only [runAssignments]
    rw [evalTerms_unnumbered hb w x.terms n m, ih]

/-- The network's result does not depend on the numbering of the reads. -/
theorem FullMix.run_unnumbered (m : FullMix) (w : Work) (n k : Nat) :
    (m.run b w n).1 = (m.run (fun _ => f) w k).1 :=
  runAssignments_unnumbered hb m.assignments w n k

end Sys2Proof
end

