-- ==== Sys2Proof/Laws/State.lean ====
section
/-! SUPPORT. What every named update of the state does to every field: each true by rfl, so that no proof unfolds an
update. -/

namespace Sys2Proof.Machine

variable (s : State)

/-! ### raise -/

@[simp] theorem State.raise_hs (e : ErrorCode) : (s.raise e).hs = s.hs := rfl
@[simp] theorem State.raise_acc (e : ErrorCode) : (s.raise e).acc = s.acc := rfl
@[simp] theorem State.raise_s1 (e : ErrorCode) : (s.raise e).s1 = s.s1 := rfl
@[simp] theorem State.raise_s2 (e : ErrorCode) : (s.raise e).s2 = s.s2 := rfl
@[simp] theorem State.raise_s3 (e : ErrorCode) : (s.raise e).s3 = s.s3 := rfl
@[simp] theorem State.raise_phase (e : ErrorCode) : (s.raise e).phase = s.phase := rfl
@[simp] theorem State.raise_mapBits (e : ErrorCode) : (s.raise e).mapBits = s.mapBits := rfl
@[simp] theorem State.raise_cnt (e : ErrorCode) : (s.raise e).cnt = s.cnt := rfl
@[simp] theorem State.raise_len1 (e : ErrorCode) : (s.raise e).len1 = s.len1 := rfl
@[simp] theorem State.raise_digest (e : ErrorCode) : (s.raise e).digest = s.digest := rfl
@[simp] theorem State.raise_busy (e : ErrorCode) : (s.raise e).busy = s.busy := rfl
@[simp] theorem State.raise_pend (e : ErrorCode) : (s.raise e).pend = s.pend := rfl
@[simp] theorem State.raise_errors (e : ErrorCode) : (s.raise e).errors = s.errors.set e := rfl
@[simp] theorem State.raise_dbgSel (e : ErrorCode) : (s.raise e).dbgSel = s.dbgSel := rfl
@[simp] theorem State.raise_table (e : ErrorCode) : (s.raise e).table = s.table := rfl
@[simp] theorem State.raise_past (e : ErrorCode) : (s.raise e).past = s.past := rfl
@[simp] theorem State.raise_reads (e : ErrorCode) : (s.raise e).reads = s.reads := rfl
@[simp] theorem State.raise_readsAtInit (e : ErrorCode) : (s.raise e).readsAtInit = s.readsAtInit := rfl
@[simp] theorem State.raise_events (e : ErrorCode) : (s.raise e).events = s.events := rfl
@[simp] theorem State.raise_replies (e : ErrorCode) : (s.raise e).replies = s.replies := rfl

/-! ### rotate -/

@[simp] theorem State.rotate_hs : (s.rotate).hs = s.hs := rfl
@[simp] theorem State.rotate_acc : (s.rotate).acc = s.acc := rfl
@[simp] theorem State.rotate_s1 : (s.rotate).s1 = s.s3 := rfl
@[simp] theorem State.rotate_s2 : (s.rotate).s2 = s.s1 := rfl
@[simp] theorem State.rotate_s3 : (s.rotate).s3 = s.s2 := rfl
@[simp] theorem State.rotate_phase : (s.rotate).phase = s.phase := rfl
@[simp] theorem State.rotate_mapBits : (s.rotate).mapBits = s.mapBits := rfl
@[simp] theorem State.rotate_cnt : (s.rotate).cnt = s.cnt := rfl
@[simp] theorem State.rotate_len1 : (s.rotate).len1 = s.len1 := rfl
@[simp] theorem State.rotate_digest : (s.rotate).digest = s.digest := rfl
@[simp] theorem State.rotate_busy : (s.rotate).busy = s.busy := rfl
@[simp] theorem State.rotate_pend : (s.rotate).pend = s.pend := rfl
@[simp] theorem State.rotate_errors : (s.rotate).errors = s.errors := rfl
@[simp] theorem State.rotate_dbgSel : (s.rotate).dbgSel = s.dbgSel := rfl
@[simp] theorem State.rotate_table : (s.rotate).table = s.table := rfl
@[simp] theorem State.rotate_past : (s.rotate).past = s.past := rfl
@[simp] theorem State.rotate_reads : (s.rotate).reads = s.reads := rfl
@[simp] theorem State.rotate_readsAtInit : (s.rotate).readsAtInit = s.readsAtInit := rfl
@[simp] theorem State.rotate_events : (s.rotate).events = s.events := rfl
@[simp] theorem State.rotate_replies : (s.rotate).replies = s.replies := rfl

/-! ### countByte -/

@[simp] theorem State.countByte_hs : (s.countByte).hs = s.hs := rfl
@[simp] theorem State.countByte_acc : (s.countByte).acc = s.acc := rfl
@[simp] theorem State.countByte_s1 : (s.countByte).s1 = s.s1 := rfl
@[simp] theorem State.countByte_s2 : (s.countByte).s2 = s.s2 := rfl
@[simp] theorem State.countByte_s3 : (s.countByte).s3 = s.s3 := rfl
@[simp] theorem State.countByte_phase : (s.countByte).phase = s.phase := rfl
@[simp] theorem State.countByte_mapBits : (s.countByte).mapBits = s.mapBits := rfl
@[simp] theorem State.countByte_cnt : (s.countByte).cnt = s.cnt + 1 := rfl
@[simp] theorem State.countByte_len1 : (s.countByte).len1 = s.len1 := rfl
@[simp] theorem State.countByte_digest : (s.countByte).digest = s.digest := rfl
@[simp] theorem State.countByte_busy : (s.countByte).busy = s.busy := rfl
@[simp] theorem State.countByte_pend : (s.countByte).pend = s.pend := rfl
@[simp] theorem State.countByte_errors : (s.countByte).errors = s.errors := rfl
@[simp] theorem State.countByte_dbgSel : (s.countByte).dbgSel = s.dbgSel := rfl
@[simp] theorem State.countByte_table : (s.countByte).table = s.table := rfl
@[simp] theorem State.countByte_past : (s.countByte).past = s.past := rfl
@[simp] theorem State.countByte_reads : (s.countByte).reads = s.reads := rfl
@[simp] theorem State.countByte_readsAtInit : (s.countByte).readsAtInit = s.readsAtInit := rfl
@[simp] theorem State.countByte_events : (s.countByte).events = s.events := rfl
@[simp] theorem State.countByte_replies : (s.countByte).replies = s.replies := rfl

/-! ### startContext -/

@[simp] theorem State.startContext_hs (k : BitVec 6) : (s.startContext k).hs = Vector.replicate 32 0 := rfl
@[simp] theorem State.startContext_acc (k : BitVec 6) : (s.startContext k).acc = Config.seed := rfl
@[simp] theorem State.startContext_s1 (k : BitVec 6) : (s.startContext k).s1 = 0 := rfl
@[simp] theorem State.startContext_s2 (k : BitVec 6) : (s.startContext k).s2 = 0 := rfl
@[simp] theorem State.startContext_s3 (k : BitVec 6) : (s.startContext k).s3 = 0 := rfl
@[simp] theorem State.startContext_phase (k : BitVec 6) : (s.startContext k).phase = .pass1 := rfl
@[simp] theorem State.startContext_mapBits (k : BitVec 6) : (s.startContext k).mapBits = k := rfl
@[simp] theorem State.startContext_cnt (k : BitVec 6) : (s.startContext k).cnt = 0 := rfl
@[simp] theorem State.startContext_len1 (k : BitVec 6) : (s.startContext k).len1 = 0 := rfl
@[simp] theorem State.startContext_digest (k : BitVec 6) : (s.startContext k).digest = Vector.replicate 32 0 := rfl
@[simp] theorem State.startContext_busy (k : BitVec 6) : (s.startContext k).busy = s.busy := rfl
@[simp] theorem State.startContext_pend (k : BitVec 6) : (s.startContext k).pend = s.pend := rfl
@[simp] theorem State.startContext_errors (k : BitVec 6) : (s.startContext k).errors = s.errors := rfl
@[simp] theorem State.startContext_dbgSel (k : BitVec 6) : (s.startContext k).dbgSel = s.dbgSel := rfl
@[simp] theorem State.startContext_table (k : BitVec 6) : (s.startContext k).table = s.table := rfl
@[simp] theorem State.startContext_past (k : BitVec 6) : (s.startContext k).past = s.past := rfl
@[simp] theorem State.startContext_reads (k : BitVec 6) : (s.startContext k).reads = s.reads := rfl
@[simp] theorem State.startContext_readsAtInit (k : BitVec 6) : (s.startContext k).readsAtInit = s.readsAtInit := rfl
@[simp] theorem State.startContext_events (k : BitVec 6) : (s.startContext k).events = s.events := rfl
@[simp] theorem State.startContext_replies (k : BitVec 6) : (s.startContext k).replies = s.replies := rfl

/-! ### startPass2 -/

@[simp] theorem State.startPass2_hs : (s.startPass2).hs = s.hs := rfl
@[simp] theorem State.startPass2_acc : (s.startPass2).acc = s.acc := rfl
@[simp] theorem State.startPass2_s1 : (s.startPass2).s1 = s.s1 := rfl
@[simp] theorem State.startPass2_s2 : (s.startPass2).s2 = s.s2 := rfl
@[simp] theorem State.startPass2_s3 : (s.startPass2).s3 = s.s3 := rfl
@[simp] theorem State.startPass2_phase : (s.startPass2).phase = .pass2 := rfl
@[simp] theorem State.startPass2_mapBits : (s.startPass2).mapBits = s.mapBits := rfl
@[simp] theorem State.startPass2_cnt : (s.startPass2).cnt = 0 := rfl
@[simp] theorem State.startPass2_len1 : (s.startPass2).len1 = s.cnt := rfl
@[simp] theorem State.startPass2_digest : (s.startPass2).digest = s.digest := rfl
@[simp] theorem State.startPass2_busy : (s.startPass2).busy = s.busy := rfl
@[simp] theorem State.startPass2_pend : (s.startPass2).pend = s.pend := rfl
@[simp] theorem State.startPass2_errors : (s.startPass2).errors = s.errors := rfl
@[simp] theorem State.startPass2_dbgSel : (s.startPass2).dbgSel = s.dbgSel := rfl
@[simp] theorem State.startPass2_table : (s.startPass2).table = s.table := rfl
@[simp] theorem State.startPass2_past : (s.startPass2).past = s.past := rfl
@[simp] theorem State.startPass2_reads : (s.startPass2).reads = s.reads := rfl
@[simp] theorem State.startPass2_readsAtInit : (s.startPass2).readsAtInit = s.readsAtInit := rfl
@[simp] theorem State.startPass2_events : (s.startPass2).events = s.events := rfl
@[simp] theorem State.startPass2_replies : (s.startPass2).replies = s.replies := rfl

/-! ### setPhase -/

@[simp] theorem State.setPhase_hs (v : Phase) : (s.setPhase v).hs = s.hs := rfl
@[simp] theorem State.setPhase_acc (v : Phase) : (s.setPhase v).acc = s.acc := rfl
@[simp] theorem State.setPhase_s1 (v : Phase) : (s.setPhase v).s1 = s.s1 := rfl
@[simp] theorem State.setPhase_s2 (v : Phase) : (s.setPhase v).s2 = s.s2 := rfl
@[simp] theorem State.setPhase_s3 (v : Phase) : (s.setPhase v).s3 = s.s3 := rfl
@[simp] theorem State.setPhase_phase (v : Phase) : (s.setPhase v).phase = v := rfl
@[simp] theorem State.setPhase_mapBits (v : Phase) : (s.setPhase v).mapBits = s.mapBits := rfl
@[simp] theorem State.setPhase_cnt (v : Phase) : (s.setPhase v).cnt = s.cnt := rfl
@[simp] theorem State.setPhase_len1 (v : Phase) : (s.setPhase v).len1 = s.len1 := rfl
@[simp] theorem State.setPhase_digest (v : Phase) : (s.setPhase v).digest = s.digest := rfl
@[simp] theorem State.setPhase_busy (v : Phase) : (s.setPhase v).busy = s.busy := rfl
@[simp] theorem State.setPhase_pend (v : Phase) : (s.setPhase v).pend = s.pend := rfl
@[simp] theorem State.setPhase_errors (v : Phase) : (s.setPhase v).errors = s.errors := rfl
@[simp] theorem State.setPhase_dbgSel (v : Phase) : (s.setPhase v).dbgSel = s.dbgSel := rfl
@[simp] theorem State.setPhase_table (v : Phase) : (s.setPhase v).table = s.table := rfl
@[simp] theorem State.setPhase_past (v : Phase) : (s.setPhase v).past = s.past := rfl
@[simp] theorem State.setPhase_reads (v : Phase) : (s.setPhase v).reads = s.reads := rfl
@[simp] theorem State.setPhase_readsAtInit (v : Phase) : (s.setPhase v).readsAtInit = s.readsAtInit := rfl
@[simp] theorem State.setPhase_events (v : Phase) : (s.setPhase v).events = s.events := rfl
@[simp] theorem State.setPhase_replies (v : Phase) : (s.setPhase v).replies = s.replies := rfl

/-! ### accept -/

@[simp] theorem State.accept_hs (w : Reg) : (s.accept w).hs = s.hs := rfl
@[simp] theorem State.accept_acc (w : Reg) : (s.accept w).acc = s.acc := rfl
@[simp] theorem State.accept_s1 (w : Reg) : (s.accept w).s1 = s.s1 := rfl
@[simp] theorem State.accept_s2 (w : Reg) : (s.accept w).s2 = s.s2 := rfl
@[simp] theorem State.accept_s3 (w : Reg) : (s.accept w).s3 = s.s3 := rfl
@[simp] theorem State.accept_phase (w : Reg) : (s.accept w).phase = s.phase := rfl
@[simp] theorem State.accept_mapBits (w : Reg) : (s.accept w).mapBits = s.mapBits := rfl
@[simp] theorem State.accept_cnt (w : Reg) : (s.accept w).cnt = s.cnt := rfl
@[simp] theorem State.accept_len1 (w : Reg) : (s.accept w).len1 = s.len1 := rfl
@[simp] theorem State.accept_digest (w : Reg) : (s.accept w).digest = s.digest := rfl
@[simp] theorem State.accept_busy (w : Reg) : (s.accept w).busy = true := rfl
@[simp] theorem State.accept_pend (w : Reg) : (s.accept w).pend = w := rfl
@[simp] theorem State.accept_errors (w : Reg) : (s.accept w).errors = s.errors := rfl
@[simp] theorem State.accept_dbgSel (w : Reg) : (s.accept w).dbgSel = s.dbgSel := rfl
@[simp] theorem State.accept_table (w : Reg) : (s.accept w).table = s.table := rfl
@[simp] theorem State.accept_past (w : Reg) : (s.accept w).past = if isInitWord w then [] else s.past := rfl
@[simp] theorem State.accept_reads (w : Reg) : (s.accept w).reads = s.reads := rfl
@[simp] theorem State.accept_readsAtInit (w : Reg) : (s.accept w).readsAtInit = if isInitWord w then s.reads else s.readsAtInit := rfl
@[simp] theorem State.accept_events (w : Reg) : (s.accept w).events = s.events := rfl
@[simp] theorem State.accept_replies (w : Reg) : (s.accept w).replies = s.replies := rfl

/-! ### clearBusy -/

@[simp] theorem State.clearBusy_hs : (s.clearBusy).hs = s.hs := rfl
@[simp] theorem State.clearBusy_acc : (s.clearBusy).acc = s.acc := rfl
@[simp] theorem State.clearBusy_s1 : (s.clearBusy).s1 = s.s1 := rfl
@[simp] theorem State.clearBusy_s2 : (s.clearBusy).s2 = s.s2 := rfl
@[simp] theorem State.clearBusy_s3 : (s.clearBusy).s3 = s.s3 := rfl
@[simp] theorem State.clearBusy_phase : (s.clearBusy).phase = s.phase := rfl
@[simp] theorem State.clearBusy_mapBits : (s.clearBusy).mapBits = s.mapBits := rfl
@[simp] theorem State.clearBusy_cnt : (s.clearBusy).cnt = s.cnt := rfl
@[simp] theorem State.clearBusy_len1 : (s.clearBusy).len1 = s.len1 := rfl
@[simp] theorem State.clearBusy_digest : (s.clearBusy).digest = s.digest := rfl
@[simp] theorem State.clearBusy_busy : (s.clearBusy).busy = false := rfl
@[simp] theorem State.clearBusy_pend : (s.clearBusy).pend = s.pend := rfl
@[simp] theorem State.clearBusy_errors : (s.clearBusy).errors = s.errors := rfl
@[simp] theorem State.clearBusy_dbgSel : (s.clearBusy).dbgSel = s.dbgSel := rfl
@[simp] theorem State.clearBusy_table : (s.clearBusy).table = s.table := rfl
@[simp] theorem State.clearBusy_past : (s.clearBusy).past = s.past := rfl
@[simp] theorem State.clearBusy_reads : (s.clearBusy).reads = s.reads := rfl
@[simp] theorem State.clearBusy_readsAtInit : (s.clearBusy).readsAtInit = s.readsAtInit := rfl
@[simp] theorem State.clearBusy_events : (s.clearBusy).events = s.events := rfl
@[simp] theorem State.clearBusy_replies : (s.clearBusy).replies = s.replies := rfl

/-! ### clearErrors -/

@[simp] theorem State.clearErrors_hs (w : Reg) : (s.clearErrors w).hs = s.hs := rfl
@[simp] theorem State.clearErrors_acc (w : Reg) : (s.clearErrors w).acc = s.acc := rfl
@[simp] theorem State.clearErrors_s1 (w : Reg) : (s.clearErrors w).s1 = s.s1 := rfl
@[simp] theorem State.clearErrors_s2 (w : Reg) : (s.clearErrors w).s2 = s.s2 := rfl
@[simp] theorem State.clearErrors_s3 (w : Reg) : (s.clearErrors w).s3 = s.s3 := rfl
@[simp] theorem State.clearErrors_phase (w : Reg) : (s.clearErrors w).phase = s.phase := rfl
@[simp] theorem State.clearErrors_mapBits (w : Reg) : (s.clearErrors w).mapBits = s.mapBits := rfl
@[simp] theorem State.clearErrors_cnt (w : Reg) : (s.clearErrors w).cnt = s.cnt := rfl
@[simp] theorem State.clearErrors_len1 (w : Reg) : (s.clearErrors w).len1 = s.len1 := rfl
@[simp] theorem State.clearErrors_digest (w : Reg) : (s.clearErrors w).digest = s.digest := rfl
@[simp] theorem State.clearErrors_busy (w : Reg) : (s.clearErrors w).busy = s.busy := rfl
@[simp] theorem State.clearErrors_pend (w : Reg) : (s.clearErrors w).pend = s.pend := rfl
@[simp] theorem State.clearErrors_errors (w : Reg) : (s.clearErrors w).errors = s.errors.clear w := rfl
@[simp] theorem State.clearErrors_dbgSel (w : Reg) : (s.clearErrors w).dbgSel = s.dbgSel := rfl
@[simp] theorem State.clearErrors_table (w : Reg) : (s.clearErrors w).table = s.table := rfl
@[simp] theorem State.clearErrors_past (w : Reg) : (s.clearErrors w).past = s.past := rfl
@[simp] theorem State.clearErrors_reads (w : Reg) : (s.clearErrors w).reads = s.reads := rfl
@[simp] theorem State.clearErrors_readsAtInit (w : Reg) : (s.clearErrors w).readsAtInit = s.readsAtInit := rfl
@[simp] theorem State.clearErrors_events (w : Reg) : (s.clearErrors w).events = s.events := rfl
@[simp] theorem State.clearErrors_replies (w : Reg) : (s.clearErrors w).replies = s.replies := rfl

/-! ### setDbgSel -/

@[simp] theorem State.setDbgSel_hs (w : Reg) : (s.setDbgSel w).hs = s.hs := rfl
@[simp] theorem State.setDbgSel_acc (w : Reg) : (s.setDbgSel w).acc = s.acc := rfl
@[simp] theorem State.setDbgSel_s1 (w : Reg) : (s.setDbgSel w).s1 = s.s1 := rfl
@[simp] theorem State.setDbgSel_s2 (w : Reg) : (s.setDbgSel w).s2 = s.s2 := rfl
@[simp] theorem State.setDbgSel_s3 (w : Reg) : (s.setDbgSel w).s3 = s.s3 := rfl
@[simp] theorem State.setDbgSel_phase (w : Reg) : (s.setDbgSel w).phase = s.phase := rfl
@[simp] theorem State.setDbgSel_mapBits (w : Reg) : (s.setDbgSel w).mapBits = s.mapBits := rfl
@[simp] theorem State.setDbgSel_cnt (w : Reg) : (s.setDbgSel w).cnt = s.cnt := rfl
@[simp] theorem State.setDbgSel_len1 (w : Reg) : (s.setDbgSel w).len1 = s.len1 := rfl
@[simp] theorem State.setDbgSel_digest (w : Reg) : (s.setDbgSel w).digest = s.digest := rfl
@[simp] theorem State.setDbgSel_busy (w : Reg) : (s.setDbgSel w).busy = s.busy := rfl
@[simp] theorem State.setDbgSel_pend (w : Reg) : (s.setDbgSel w).pend = s.pend := rfl
@[simp] theorem State.setDbgSel_errors (w : Reg) : (s.setDbgSel w).errors = s.errors := rfl
@[simp] theorem State.setDbgSel_dbgSel (w : Reg) : (s.setDbgSel w).dbgSel = w.extractLsb' 0 6 := rfl
@[simp] theorem State.setDbgSel_table (w : Reg) : (s.setDbgSel w).table = s.table := rfl
@[simp] theorem State.setDbgSel_past (w : Reg) : (s.setDbgSel w).past = s.past := rfl
@[simp] theorem State.setDbgSel_reads (w : Reg) : (s.setDbgSel w).reads = s.reads := rfl
@[simp] theorem State.setDbgSel_readsAtInit (w : Reg) : (s.setDbgSel w).readsAtInit = s.readsAtInit := rfl
@[simp] theorem State.setDbgSel_events (w : Reg) : (s.setDbgSel w).events = s.events := rfl
@[simp] theorem State.setDbgSel_replies (w : Reg) : (s.setDbgSel w).replies = s.replies := rfl

/-! ### reply -/

@[simp] theorem State.reply_hs (r : Reply) : (s.reply r).hs = s.hs := rfl
@[simp] theorem State.reply_acc (r : Reply) : (s.reply r).acc = s.acc := rfl
@[simp] theorem State.reply_s1 (r : Reply) : (s.reply r).s1 = s.s1 := rfl
@[simp] theorem State.reply_s2 (r : Reply) : (s.reply r).s2 = s.s2 := rfl
@[simp] theorem State.reply_s3 (r : Reply) : (s.reply r).s3 = s.s3 := rfl
@[simp] theorem State.reply_phase (r : Reply) : (s.reply r).phase = s.phase := rfl
@[simp] theorem State.reply_mapBits (r : Reply) : (s.reply r).mapBits = s.mapBits := rfl
@[simp] theorem State.reply_cnt (r : Reply) : (s.reply r).cnt = s.cnt := rfl
@[simp] theorem State.reply_len1 (r : Reply) : (s.reply r).len1 = s.len1 := rfl
@[simp] theorem State.reply_digest (r : Reply) : (s.reply r).digest = s.digest := rfl
@[simp] theorem State.reply_busy (r : Reply) : (s.reply r).busy = s.busy := rfl
@[simp] theorem State.reply_pend (r : Reply) : (s.reply r).pend = s.pend := rfl
@[simp] theorem State.reply_errors (r : Reply) : (s.reply r).errors = s.errors := rfl
@[simp] theorem State.reply_dbgSel (r : Reply) : (s.reply r).dbgSel = s.dbgSel := rfl
@[simp] theorem State.reply_table (r : Reply) : (s.reply r).table = s.table := rfl
@[simp] theorem State.reply_past (r : Reply) : (s.reply r).past = s.past := rfl
@[simp] theorem State.reply_reads (r : Reply) : (s.reply r).reads = s.reads := rfl
@[simp] theorem State.reply_readsAtInit (r : Reply) : (s.reply r).readsAtInit = s.readsAtInit := rfl
@[simp] theorem State.reply_events (r : Reply) : (s.reply r).events = s.events := rfl
@[simp] theorem State.reply_replies (r : Reply) : (s.reply r).replies = r :: s.replies := rfl

/-! ### setEvents -/

@[simp] theorem State.setEvents_hs (es : List Event) : (s.setEvents es).hs = s.hs := rfl
@[simp] theorem State.setEvents_acc (es : List Event) : (s.setEvents es).acc = s.acc := rfl
@[simp] theorem State.setEvents_s1 (es : List Event) : (s.setEvents es).s1 = s.s1 := rfl
@[simp] theorem State.setEvents_s2 (es : List Event) : (s.setEvents es).s2 = s.s2 := rfl
@[simp] theorem State.setEvents_s3 (es : List Event) : (s.setEvents es).s3 = s.s3 := rfl
@[simp] theorem State.setEvents_phase (es : List Event) : (s.setEvents es).phase = s.phase := rfl
@[simp] theorem State.setEvents_mapBits (es : List Event) : (s.setEvents es).mapBits = s.mapBits := rfl
@[simp] theorem State.setEvents_cnt (es : List Event) : (s.setEvents es).cnt = s.cnt := rfl
@[simp] theorem State.setEvents_len1 (es : List Event) : (s.setEvents es).len1 = s.len1 := rfl
@[simp] theorem State.setEvents_digest (es : List Event) : (s.setEvents es).digest = s.digest := rfl
@[simp] theorem State.setEvents_busy (es : List Event) : (s.setEvents es).busy = s.busy := rfl
@[simp] theorem State.setEvents_pend (es : List Event) : (s.setEvents es).pend = s.pend := rfl
@[simp] theorem State.setEvents_errors (es : List Event) : (s.setEvents es).errors = s.errors := rfl
@[simp] theorem State.setEvents_dbgSel (es : List Event) : (s.setEvents es).dbgSel = s.dbgSel := rfl
@[simp] theorem State.setEvents_table (es : List Event) : (s.setEvents es).table = s.table := rfl
@[simp] theorem State.setEvents_past (es : List Event) : (s.setEvents es).past = s.past := rfl
@[simp] theorem State.setEvents_reads (es : List Event) : (s.setEvents es).reads = s.reads := rfl
@[simp] theorem State.setEvents_readsAtInit (es : List Event) : (s.setEvents es).readsAtInit = s.readsAtInit := rfl
@[simp] theorem State.setEvents_events (es : List Event) : (s.setEvents es).events = es := rfl
@[simp] theorem State.setEvents_replies (es : List Event) : (s.setEvents es).replies = s.replies := rfl

/-! ### bindTable -/

@[simp] theorem State.bindTable_hs (m : Memory) : (s.bindTable m).hs = s.hs := rfl
@[simp] theorem State.bindTable_acc (m : Memory) : (s.bindTable m).acc = s.acc := rfl
@[simp] theorem State.bindTable_s1 (m : Memory) : (s.bindTable m).s1 = s.s1 := rfl
@[simp] theorem State.bindTable_s2 (m : Memory) : (s.bindTable m).s2 = s.s2 := rfl
@[simp] theorem State.bindTable_s3 (m : Memory) : (s.bindTable m).s3 = s.s3 := rfl
@[simp] theorem State.bindTable_phase (m : Memory) : (s.bindTable m).phase = s.phase := rfl
@[simp] theorem State.bindTable_mapBits (m : Memory) : (s.bindTable m).mapBits = s.mapBits := rfl
@[simp] theorem State.bindTable_cnt (m : Memory) : (s.bindTable m).cnt = s.cnt := rfl
@[simp] theorem State.bindTable_len1 (m : Memory) : (s.bindTable m).len1 = s.len1 := rfl
@[simp] theorem State.bindTable_digest (m : Memory) : (s.bindTable m).digest = s.digest := rfl
@[simp] theorem State.bindTable_busy (m : Memory) : (s.bindTable m).busy = s.busy := rfl
@[simp] theorem State.bindTable_pend (m : Memory) : (s.bindTable m).pend = s.pend := rfl
@[simp] theorem State.bindTable_errors (m : Memory) : (s.bindTable m).errors = s.errors := rfl
@[simp] theorem State.bindTable_dbgSel (m : Memory) : (s.bindTable m).dbgSel = s.dbgSel := rfl
@[simp] theorem State.bindTable_table (m : Memory) : (s.bindTable m).table = m := rfl
@[simp] theorem State.bindTable_past (m : Memory) : (s.bindTable m).past = if s.awaitsTable then s.past else s.table :: s.past := rfl
@[simp] theorem State.bindTable_reads (m : Memory) : (s.bindTable m).reads = s.reads := rfl
@[simp] theorem State.bindTable_readsAtInit (m : Memory) : (s.bindTable m).readsAtInit = s.readsAtInit := rfl
@[simp] theorem State.bindTable_events (m : Memory) : (s.bindTable m).events = s.events := rfl
@[simp] theorem State.bindTable_replies (m : Memory) : (s.bindTable m).replies = s.replies := rfl

/-! ### writeTable -/

@[simp] theorem State.writeTable_hs (i : Nat) (v : Byte) : (s.writeTable i v).hs = s.hs := rfl
@[simp] theorem State.writeTable_acc (i : Nat) (v : Byte) : (s.writeTable i v).acc = s.acc := rfl
@[simp] theorem State.writeTable_s1 (i : Nat) (v : Byte) : (s.writeTable i v).s1 = s.s1 := rfl
@[simp] theorem State.writeTable_s2 (i : Nat) (v : Byte) : (s.writeTable i v).s2 = s.s2 := rfl
@[simp] theorem State.writeTable_s3 (i : Nat) (v : Byte) : (s.writeTable i v).s3 = s.s3 := rfl
@[simp] theorem State.writeTable_phase (i : Nat) (v : Byte) : (s.writeTable i v).phase = s.phase := rfl
@[simp] theorem State.writeTable_mapBits (i : Nat) (v : Byte) : (s.writeTable i v).mapBits = s.mapBits := rfl
@[simp] theorem State.writeTable_cnt (i : Nat) (v : Byte) : (s.writeTable i v).cnt = s.cnt := rfl
@[simp] theorem State.writeTable_len1 (i : Nat) (v : Byte) : (s.writeTable i v).len1 = s.len1 := rfl
@[simp] theorem State.writeTable_digest (i : Nat) (v : Byte) : (s.writeTable i v).digest = s.digest := rfl
@[simp] theorem State.writeTable_busy (i : Nat) (v : Byte) : (s.writeTable i v).busy = s.busy := rfl
@[simp] theorem State.writeTable_pend (i : Nat) (v : Byte) : (s.writeTable i v).pend = s.pend := rfl
@[simp] theorem State.writeTable_errors (i : Nat) (v : Byte) : (s.writeTable i v).errors = s.errors := rfl
@[simp] theorem State.writeTable_dbgSel (i : Nat) (v : Byte) : (s.writeTable i v).dbgSel = s.dbgSel := rfl
@[simp] theorem State.writeTable_table (i : Nat) (v : Byte) : (s.writeTable i v).table = s.table.write i v := rfl
@[simp] theorem State.writeTable_past (i : Nat) (v : Byte) : (s.writeTable i v).past = s.table :: s.past := rfl
@[simp] theorem State.writeTable_reads (i : Nat) (v : Byte) : (s.writeTable i v).reads = s.reads := rfl
@[simp] theorem State.writeTable_readsAtInit (i : Nat) (v : Byte) : (s.writeTable i v).readsAtInit = s.readsAtInit := rfl
@[simp] theorem State.writeTable_events (i : Nat) (v : Byte) : (s.writeTable i v).events = s.events := rfl
@[simp] theorem State.writeTable_replies (i : Nat) (v : Byte) : (s.writeTable i v).replies = s.replies := rfl

/-! ### hardReset -/

@[simp] theorem State.hardReset_hs : (s.hardReset).hs = State.reset.hs := rfl
@[simp] theorem State.hardReset_acc : (s.hardReset).acc = State.reset.acc := rfl
@[simp] theorem State.hardReset_s1 : (s.hardReset).s1 = State.reset.s1 := rfl
@[simp] theorem State.hardReset_s2 : (s.hardReset).s2 = State.reset.s2 := rfl
@[simp] theorem State.hardReset_s3 : (s.hardReset).s3 = State.reset.s3 := rfl
@[simp] theorem State.hardReset_phase : (s.hardReset).phase = State.reset.phase := rfl
@[simp] theorem State.hardReset_mapBits : (s.hardReset).mapBits = State.reset.mapBits := rfl
@[simp] theorem State.hardReset_cnt : (s.hardReset).cnt = State.reset.cnt := rfl
@[simp] theorem State.hardReset_len1 : (s.hardReset).len1 = State.reset.len1 := rfl
@[simp] theorem State.hardReset_digest : (s.hardReset).digest = State.reset.digest := rfl
@[simp] theorem State.hardReset_busy : (s.hardReset).busy = State.reset.busy := rfl
@[simp] theorem State.hardReset_pend : (s.hardReset).pend = State.reset.pend := rfl
@[simp] theorem State.hardReset_errors : (s.hardReset).errors = State.reset.errors := rfl
@[simp] theorem State.hardReset_dbgSel : (s.hardReset).dbgSel = State.reset.dbgSel := rfl
@[simp] theorem State.hardReset_table : (s.hardReset).table = s.table := rfl
@[simp] theorem State.hardReset_past : (s.hardReset).past = s.past := rfl
@[simp] theorem State.hardReset_reads : (s.hardReset).reads = s.reads := rfl
@[simp] theorem State.hardReset_readsAtInit : (s.hardReset).readsAtInit = s.readsAtInit := rfl
@[simp] theorem State.hardReset_events : (s.hardReset).events = s.events := rfl
@[simp] theorem State.hardReset_replies : (s.hardReset).replies = s.replies := rfl

/-! ### inFlight -/

@[simp] theorem State.inFlight_hs (w : Reg) : (s.inFlight w).hs = s.hs := rfl
@[simp] theorem State.inFlight_acc (w : Reg) : (s.inFlight w).acc = s.acc := rfl
@[simp] theorem State.inFlight_s1 (w : Reg) : (s.inFlight w).s1 = s.s1 := rfl
@[simp] theorem State.inFlight_s2 (w : Reg) : (s.inFlight w).s2 = s.s2 := rfl
@[simp] theorem State.inFlight_s3 (w : Reg) : (s.inFlight w).s3 = s.s3 := rfl
@[simp] theorem State.inFlight_phase (w : Reg) : (s.inFlight w).phase = s.phase := rfl
@[simp] theorem State.inFlight_mapBits (w : Reg) : (s.inFlight w).mapBits = s.mapBits := rfl
@[simp] theorem State.inFlight_cnt (w : Reg) : (s.inFlight w).cnt = s.cnt := rfl
@[simp] theorem State.inFlight_len1 (w : Reg) : (s.inFlight w).len1 = s.len1 := rfl
@[simp] theorem State.inFlight_digest (w : Reg) : (s.inFlight w).digest = s.digest := rfl
@[simp] theorem State.inFlight_busy (w : Reg) : (s.inFlight w).busy = true := rfl
@[simp] theorem State.inFlight_pend (w : Reg) : (s.inFlight w).pend = w := rfl
@[simp] theorem State.inFlight_errors (w : Reg) : (s.inFlight w).errors = s.errors := rfl
@[simp] theorem State.inFlight_dbgSel (w : Reg) : (s.inFlight w).dbgSel = s.dbgSel := rfl
@[simp] theorem State.inFlight_table (w : Reg) : (s.inFlight w).table = s.table := rfl
@[simp] theorem State.inFlight_past (w : Reg) : (s.inFlight w).past = s.past := rfl
@[simp] theorem State.inFlight_reads (w : Reg) : (s.inFlight w).reads = s.reads := rfl
@[simp] theorem State.inFlight_readsAtInit (w : Reg) : (s.inFlight w).readsAtInit = s.readsAtInit := rfl
@[simp] theorem State.inFlight_events (w : Reg) : (s.inFlight w).events = .complete :: s.events := rfl
@[simp] theorem State.inFlight_replies (w : Reg) : (s.inFlight w).replies = s.replies := rfl

/-! ### The host's word in flight -/

@[simp] theorem State.withFetchWord_eq (nbits w : Nat) :
    s.withFetchWord nbits w = s.inFlight (BitVec.ofNat 32 (w % 2 ^ nbits)) := rfl

end Sys2Proof.Machine
end

