-- ==== Sys2Proof/Laws/Ops.lean ====
section
/-! SUPPORT. What the shared operations do: the table port, the two steps, one iteration of the finalization loop and the
loop, and that accepting, serving and completing always give a next state. -/

namespace Sys2Proof.Machine

/-! ### Operands -/

/-- The range check of `INIT` (40 R111). -/
theorem mapBitsLegal_iff (k : BitVec 6) : mapBitsLegal k = true ↔ 1 ≤ k.toNat ∧ k.toNat ≤ 32 := by
  rw [mapBitsLegal, Bool.and_eq_true, decide_eq_true_iff, decide_eq_true_iff]
  rfl

/-! ### The table port -/

@[simp] theorem versionFor_nil (now : Memory) (n : Nat) : versionFor now [] n = now := rfl

/-- The table that answers is one that stood at the port since the last accepted `INIT`. -/
theorem versionFor_mem (now : Memory) (past : List Memory) (n : Nat) : versionFor now past n ∈ now :: past := by
  cases past with
  | nil => simp
  | cons p ps =>
    have h : Config.raceVersion n % (ps.length + 2) < (now :: p :: ps).length :=
      Nat.mod_lt _ (by simp)
    rw [versionFor, List.getD_eq_getElem _ _ h]
    exact List.getElem_mem h

/-- A table that holds the index answers with its byte there. -/
theorem Memory.answer_of_read {m : Memory} {i : BitVec 32} {v : Byte} (h : m.read? i.toNat = some v) (n : Nat) :
    m.answer n i = v := by
  simp [Memory.answer, h]

/-- A lookup depends only on the table, its changes and `MAPBITS`. -/
theorem State.lookup_congr {s t : State} (h1 : t.table = s.table) (h2 : t.past = s.past) (h3 : t.mapBits = s.mapBits) :
    t.lookup = s.lookup := by
  funext n x
  simp [State.lookup, State.tableRead, h1, h2, h3]

/-! ### The fast step -/

section
variable (p : Params) (v : Word) (i : Slot) (s : State)

/-- The byte a fast step looks up, widened. -/
def fastByte : Word := zext64 (s.lookup s.reads (s.acc ^^^ v))

@[simp] theorem fastStep_acc : (fastStep p v i s).acc = fastAcc p s.acc v (fastByte v s) := rfl
@[simp] theorem fastStep_s1 : (fastStep p v i s).s1 = s.s3 := rfl
@[simp] theorem fastStep_s2 : (fastStep p v i s).s2 = fastS1 p s.s1 s.hs[i] := rfl
@[simp] theorem fastStep_s3 : (fastStep p v i s).s3 = s.s2 := rfl
@[simp] theorem fastStep_hs : (fastStep p v i s).hs =
    s.hs.set i (fastS1 p s.s1 s.hs[i] ^^^ fastAcc p s.acc v (fastByte v s)) := rfl
@[simp] theorem fastStep_reads : (fastStep p v i s).reads = s.reads + 1 := rfl
@[simp] theorem fastStep_cnt : (fastStep p v i s).cnt = s.cnt := rfl

/-- A fast step changes the datapath and the number of reads only. -/
theorem fastStep_same : SameButStep s (fastStep p v i s) :=
  ⟨rfl, rfl, rfl, rfl, rfl, rfl, rfl, rfl, rfl, rfl, rfl, rfl, rfl⟩

/-! ### The full step -/

/-- The network's result in a full step. -/
def fullWork : Work := (p.fullMix.run s.lookup (s.work v i) s.reads).1

@[simp] theorem fullStep_acc : (fullStep p v i s).acc = (fullWork p v i s).a := rfl
@[simp] theorem fullStep_s1 : (fullStep p v i s).s1 = s.s3 := rfl
@[simp] theorem fullStep_s2 : (fullStep p v i s).s2 = (fullWork p v i s).s1 := rfl
@[simp] theorem fullStep_s3 : (fullStep p v i s).s3 = (fullWork p v i s).s2 := rfl
@[simp] theorem fullStep_hs : (fullStep p v i s).hs = s.hs.set i (fullWork p v i s).h := rfl
@[simp] theorem fullStep_reads : (fullStep p v i s).reads = s.reads + p.fullMix.lookups :=
  FullMix.run_reads s.lookup p.fullMix (s.work v i) s.reads
@[simp] theorem fullStep_cnt : (fullStep p v i s).cnt = s.cnt := rfl

/-- A full step changes the datapath and the number of reads only. -/
theorem fullStep_same : SameButStep s (fullStep p v i s) :=
  ⟨rfl, rfl, rfl, rfl, rfl, rfl, rfl, rfl, rfl, rfl, rfl, rfl, rfl⟩

end

/-! ### Finalization -/

/-- What the finalization loop leaves alone. -/
def SameButFinal (s t : State) : Prop :=
  t.phase = s.phase ∧ t.mapBits = s.mapBits ∧ t.cnt = s.cnt ∧ t.len1 = s.len1 ∧ t.busy = s.busy
    ∧ t.pend = s.pend ∧ t.errors = s.errors ∧ t.dbgSel = s.dbgSel ∧ t.table = s.table ∧ t.past = s.past
    ∧ t.readsAtInit = s.readsAtInit ∧ t.events = s.events ∧ t.replies = s.replies

theorem SameButFinal.trans {s t u : State} (h : SameButFinal s t) (g : SameButFinal t u) : SameButFinal s u := by
  unfold SameButFinal at *
  simp_all

/-- One iteration changes the datapath, the digest and the number of reads only. -/
theorem finalIteration_same (p : Params) (i : Slot) (s : State) : SameButFinal s (finalIteration p i s) :=
  ⟨rfl, rfl, rfl, rfl, rfl, rfl, rfl, rfl, rfl, rfl, rfl, rfl, rfl⟩

@[simp] theorem finalIteration_reads (p : Params) (i : Slot) (s : State) :
    (finalIteration p i s).reads = s.reads + p.fullMix.lookups + 2 := by
  rw [← fullStep_reads p s.hs[i] i s]
  rfl

/-- One iteration writes no slot but its own. -/
theorem finalIteration_hs_other (p : Params) (i : Slot) (s : State) {j : Slot} (h : j ≠ i) :
    (finalIteration p i s).hs[j] = s.hs[j] := by
  have : (i : Nat) ≠ (j : Nat) := fun e => h (Fin.ext e.symm)
  simp [finalIteration, emitByte, this]

/-- One iteration writes no digest byte but its own. -/
theorem finalIteration_digest_other (p : Params) (i : Slot) (s : State) {j : Slot} (h : j ≠ i) :
    (finalIteration p i s).digest[j] = s.digest[j] := by
  have : (i : Nat) ≠ (j : Nat) := fun e => h (Fin.ext e.symm)
  simp [finalIteration, emitByte, this]
  rfl

/-- One iteration writes its own digest byte: two lookups after its full step (43 R172). -/
theorem finalIteration_digest_self (p : Params) (i : Slot) (s : State) :
    (finalIteration p i s).digest[i] =
      (let t := fullStep p s.hs[i] i s
       t.lookup t.reads t.acc ^^^ t.lookup (t.reads + 1) t.hs[i]) := by
  simp only [finalIteration, emitByte, Fin.getElem_fin, Vector.getElem_set_self]

/-- The loop changes the datapath, the digest and the number of reads only. -/
theorem finalizeDown_same (p : Params) (n : Nat) (h : n ≤ 32) (s : State) :
    SameButFinal s (finalizeDown p n h s) := by
  induction n generalizing s with
  | zero => exact ⟨rfl, rfl, rfl, rfl, rfl, rfl, rfl, rfl, rfl, rfl, rfl, rfl, rfl⟩
  | succ n ih => exact (finalIteration_same p ⟨n, h⟩ s).trans (ih _ _)

/-- The loop over the slots below `n` writes no slot from `n` up. -/
theorem finalizeDown_hs_above (p : Params) (n : Nat) (h : n ≤ 32) (s : State) {j : Slot} (hj : n ≤ j) :
    (finalizeDown p n h s).hs[j] = s.hs[j] := by
  induction n generalizing s with
  | zero => rfl
  | succ n ih =>
    rw [finalizeDown, ih _ _ (by omega), finalIteration_hs_other]
    exact fun e => by simp [e] at hj

/-- The loop over the slots below `n` writes no digest byte from `n` up. -/
theorem finalizeDown_digest_above (p : Params) (n : Nat) (h : n ≤ 32) (s : State) {j : Slot} (hj : n ≤ j) :
    (finalizeDown p n h s).digest[j] = s.digest[j] := by
  induction n generalizing s with
  | zero => rfl
  | succ n ih =>
    rw [finalizeDown, ih _ _ (by omega), finalIteration_digest_other]
    exact fun e => by simp [e] at hj

/-- The loop ends with slot 0's iteration, which finds that slot as the loop did. -/
theorem finalizeDown_last (p : Params) (n : Nat) (h : n + 1 ≤ 32) (s : State) :
    ∃ u : State, finalizeDown p (n + 1) h s = finalIteration p 0 u ∧ u.hs[(0 : Slot)] = s.hs[(0 : Slot)] := by
  induction n generalizing s with
  | zero => exact ⟨s, rfl, rfl⟩
  | succ n ih =>
    obtain ⟨u, hu, h0⟩ := ih (Nat.le_of_succ_le h) (finalIteration p ⟨n + 1, h⟩ s)
    exact ⟨u, hu, h0.trans (finalIteration_hs_other p _ s (by simp [Fin.ext_iff]))⟩

/-- If the loop leaves `HS[0]`, `S2` and `S3` as they were, they were of one kind: `S2 = G(S3)` for the network's `G`. -/
theorem finalizeDown_fixed (p : Params) (n : Nat) (h : n + 1 ≤ 32) (s : State)
    (h0 : (finalizeDown p (n + 1) h s).hs = s.hs) (h2 : (finalizeDown p (n + 1) h s).s2 = s.s2)
    (h3 : (finalizeDown p (n + 1) h s).s3 = s.s3) : s.s2 = shiftXor p.fullMix.f1.toList s.s3 := by
  obtain ⟨u, hu, hv⟩ := finalizeDown_last p n h s
  obtain ⟨x, hx, hs⟩ := FullMix.run_s1 u.lookup p.fullMix (u.work u.hs[(0 : Slot)] 0) u.reads
  rw [hu] at h0 h2 h3
  have e0 : (fullWork p u.hs[(0 : Slot)] 0 u).h = s.hs[(0 : Slot)] := by
    rw [← h0]
    simp [finalIteration, emitByte]
  have ex : x = s.hs[(0 : Slot)] := hx.elim (fun e => e.trans hv) (fun e => e.trans e0)
  have e : s.s2 = shiftXor p.fullMix.f1.toList s.s3 ^^^ x ^^^ u.hs[(0 : Slot)] := by
    rw [← h2, ← h3]
    exact hs
  rw [e, ex, hv, BitVec.xor_assoc, BitVec.xor_self, BitVec.xor_zero]

/-! ### Commands and steps answer a next state -/

/-- Every command answers a next state, and which one. -/
theorem exec_cases (i : Instr) (s : State) :
    (i = .nop ∧ exec i s = .next s)
      ∨ (∃ k, i = .init k ∧ mapBitsLegal k = true ∧ exec i s = .next (s.startContext k))
      ∨ (∃ k, i = .init k ∧ mapBitsLegal k = false ∧ exec i s = .next ((s.setPhase .idle).raise .cfg))
      ∨ (∃ v, i = .fast v ∧ s.phase = .pass1
          ∧ exec i s = .next (fastStep Config.params (zext64 v) s.idx s).countByte)
      ∨ (i = .pass2 ∧ s.phase = .pass1 ∧ exec i s = .next s.startPass2)
      ∨ (∃ v, i = .full v ∧ s.phase = .pass2
          ∧ exec i s = .next (fullStep Config.params (zext64 v) s.idx s).countByte)
      ∨ (i = .final ∧ s.phase = .pass2 ∧ s.cnt = s.len1
          ∧ exec i s = .next ((finalizeDown Config.params 32 (Nat.le_refl 32) s).setPhase .done))
      ∨ (∃ e, (e = .seq ∨ e = .len) ∧ exec i s = .next (s.raise e)) := by
  cases i with
  | nop => exact .inl ⟨rfl, rfl⟩
  | init k =>
    cases hk : mapBitsLegal k
    · exact .inr (.inr (.inl ⟨k, rfl, hk, by simp [exec, execInit, hk]⟩))
    · exact .inr (.inl ⟨k, rfl, hk, by simp [exec, execInit, hk]⟩)
  | fast v =>
    by_cases h : s.phase = .pass1
    · exact .inr (.inr (.inr (.inl ⟨v, rfl, h, by simp [exec, execFast, h]⟩)))
    · exact .inr (.inr (.inr (.inr (.inr (.inr (.inr ⟨.seq, .inl rfl, by simp [exec, execFast, h]⟩))))))
  | pass2 =>
    by_cases h : s.phase = .pass1
    · exact .inr (.inr (.inr (.inr (.inl ⟨rfl, h, by simp [exec, execPass2, h]⟩))))
    · exact .inr (.inr (.inr (.inr (.inr (.inr (.inr ⟨.seq, .inl rfl, by simp [exec, execPass2, h]⟩))))))
  | full v =>
    by_cases h : s.phase = .pass2
    · exact .inr (.inr (.inr (.inr (.inr (.inl ⟨v, rfl, h, by simp [exec, execFull, h]⟩)))))
    · exact .inr (.inr (.inr (.inr (.inr (.inr (.inr ⟨.seq, .inl rfl, by simp [exec, execFull, h]⟩))))))
  | final =>
    by_cases h : s.phase = .pass2
    · by_cases g : s.cnt = s.len1
      · exact .inr (.inr (.inr (.inr (.inr (.inr (.inl ⟨rfl, h, g, by simp [exec, execFinal, h, g]⟩))))))
      · exact .inr (.inr (.inr (.inr (.inr (.inr (.inr ⟨.len, .inr rfl, by simp [exec, execFinal, h, g]⟩))))))
    · exact .inr (.inr (.inr (.inr (.inr (.inr (.inr ⟨.seq, .inl rfl, by simp [exec, execFinal, h]⟩))))))

/-- Completing the command in flight: it runs with `BUSY` clear, or its word is illegal and raises `ILL`. -/
theorem completeCommand_cases (s : State) :
    (∃ i, decode s.pend = .ok i ∧ completeCommand s = exec i s.clearBusy)
      ∨ (∃ r, decode s.pend = .error r ∧ completeCommand s = .next (s.clearBusy.raise .ill)) := by
  unfold completeCommand
  cases h : decode s.pend with
  | ok i => exact .inl ⟨i, rfl, rfl⟩
  | error r => exact .inr ⟨r, rfl, rfl⟩

end Sys2Proof.Machine
end

