-- ==== Sys2Proof/Laws/PerInstr.lean ====
section
/-! SUPPORT. Laws stated of every command, one lemma per constructor. -/

namespace Sys2Proof.Laws

/-- Family EncodeRow: a command's word is selected by its row of the opcode map (30 R94), whose match and mask are the
map's. -/
def EncodeRow.Statement (i : Instr) : Prop := i.row ∈ opcodeMap ∧ i.row.selects (encode i) = true

theorem EncodeRow.nop : EncodeRow.Statement .nop := by unfold EncodeRow.Statement; decide

theorem EncodeRow.init (k : BitVec 6) : EncodeRow.Statement (.init k) := by
  refine ⟨by simp [Instr.row, opcodeMap], ?_⟩
  revert k
  decide

theorem EncodeRow.fast (v : Byte) : EncodeRow.Statement (.fast v) := by
  refine ⟨by simp [Instr.row, opcodeMap], ?_⟩
  revert v
  decide

theorem EncodeRow.pass2 : EncodeRow.Statement .pass2 := by unfold EncodeRow.Statement; decide

theorem EncodeRow.full (v : Byte) : EncodeRow.Statement (.full v) := by
  refine ⟨by simp [Instr.row, opcodeMap], ?_⟩
  revert v
  decide

theorem EncodeRow.final : EncodeRow.Statement .final := by unfold EncodeRow.Statement; decide

end Sys2Proof.Laws
end

