-- ==== Sys2Proof/Laws/Step.lean ====
section
/-! SUPPORT. Everything one step can do, said once: the inversion lemmas of serving an access and of the step. -/

namespace Sys2Proof.Machine

/-- Serving an access answers it, and otherwise does nothing, or clears error bits, or accepts a command, or sets the debug
selector. -/
theorem serve_cases (a : Access) (s : State) :
    (∃ r, serve a s = s.reply r)
      ∨ (∃ v r, a.op = .write v ∧ a.wellFormed = true ∧ registerAt (windowOffset a.addr) = .status
          ∧ serve a s = (s.clearErrors v).reply r)
      ∨ (∃ v r, a.op = .write v ∧ a.wellFormed = true ∧ registerAt (windowOffset a.addr) = .cmd
          ∧ serve a s = (s.accept v).reply r)
      ∨ (∃ v r, a.op = .write v ∧ serve a s = (s.setDbgSel v).reply r) := by
  unfold serve
  cases ho : a.op with
  | read => left; dsimp only; split <;> exact ⟨_, rfl⟩
  | write v =>
    dsimp only
    split
    · rename_i hw
      cases hr : registerAt (windowOffset a.addr) with
      | status => exact .inr (.inl ⟨v, _, rfl, hw, rfl, rfl⟩)
      | cmd => exact .inr (.inr (.inl ⟨v, _, rfl, hw, rfl, rfl⟩))
      | dbgSel => exact .inr (.inr (.inr ⟨v, _, rfl, rfl⟩))
      | id => exact .inl ⟨_, rfl⟩
      | count => exact .inl ⟨_, rfl⟩
      | len1 => exact .inl ⟨_, rfl⟩
      | dbgLo => exact .inl ⟨_, rfl⟩
      | dbgHi => exact .inl ⟨_, rfl⟩
      | digest n => exact .inl ⟨_, rfl⟩
      | reserved => exact .inl ⟨_, rfl⟩
    · exact .inl ⟨_, rfl⟩

/-- A step completes the command in flight, or serves an access, or answers a poll, or lets the platform or the reset input
act, or passes an idle moment. -/
theorem step_cases {s t : State} (h : step s = .next t) :
    (∃ es, s.busy = true ∧ completeCommand (s.setEvents es) = .next t
        ∧ (es = s.events ∨ s.events = .complete :: es))
      ∨ (∃ a es, s.events = .access a :: es ∧ (s.busy && heldWhileBusy a) = false ∧ t = serve a (s.setEvents es))
      ∨ (∃ n es es', s.events = .poll n :: es ∧ t = s.replyStatus.setEvents es')
      ∨ (∃ es, s.busy = false ∧ t = s.setEvents es ∧ (es = s.events ∨ s.events = .complete :: es))
      ∨ (∃ es, s.events = .reset :: es ∧ t = (s.setEvents es).hardReset)
      ∨ (∃ size cells es, s.events = .bindTable size cells :: es
          ∧ t = (s.setEvents es).bindTable (Memory.ofCells size cells))
      ∨ (∃ i v es, s.events = .writeTable i v :: es ∧ t = (s.setEvents es).writeTable i v) := by
  unfold step schedule at h
  cases he : s.events with
  | nil =>
    simp only [he] at h
    cases hb : s.busy
    · simp only [hb, Bool.false_eq_true, if_false, Host.Outcome.next.injEq] at h
      exact .inr (.inr (.inr (.inl ⟨[], rfl, by rw [← h, ← he]; rfl, .inl rfl⟩)))
    · simp only [hb, if_true] at h
      exact .inl ⟨[], rfl, by rw [← he]; exact h, .inl rfl⟩
  | cons e es =>
    simp only [he] at h
    cases e with
    | access a =>
      dsimp only at h
      cases hh : (s.busy && heldWhileBusy a)
      · simp only [hh, Bool.false_eq_true, if_false, Host.Outcome.next.injEq] at h
        exact .inr (.inl ⟨a, es, rfl, hh, h.symm⟩)
      · simp only [hh, if_true] at h
        exact .inl ⟨_, (Bool.and_eq_true _ _ ▸ hh).1, by rw [← he]; exact h, .inl rfl⟩
    | poll n =>
      dsimp only at h
      cases hb : s.busy
      · simp only [hb, Bool.false_eq_true, if_false, Host.Outcome.next.injEq] at h
        exact .inr (.inr (.inl ⟨n, es, _, rfl, h.symm⟩))
      · simp only [hb, if_true] at h
        cases n with
        | zero => exact .inl ⟨_, rfl, by rw [← he]; exact h, .inl rfl⟩
        | succ m =>
          simp only [Host.Outcome.next.injEq] at h
          exact .inr (.inr (.inl ⟨_, es, _, rfl, h.symm⟩))
    | complete =>
      dsimp only at h
      cases hb : s.busy
      · simp only [hb, Bool.false_eq_true, if_false, Host.Outcome.next.injEq] at h
        exact .inr (.inr (.inr (.inl ⟨es, rfl, h.symm, .inr rfl⟩)))
      · simp only [hb, if_true] at h
        exact .inl ⟨es, rfl, h, .inr rfl⟩
    | reset =>
      simp only [Host.Outcome.next.injEq] at h
      exact .inr (.inr (.inr (.inr (.inl ⟨es, rfl, h.symm⟩))))
    | bindTable size cells =>
      simp only [Host.Outcome.next.injEq] at h
      exact .inr (.inr (.inr (.inr (.inr (.inl ⟨size, cells, es, rfl, h.symm⟩)))))
    | writeTable i v =>
      simp only [Host.Outcome.next.injEq] at h
      exact .inr (.inr (.inr (.inr (.inr (.inr ⟨i, v, es, rfl, h.symm⟩)))))

end Sys2Proof.Machine
end

