-- ==== Sys2Proof/Tests/CfgT.lean ====
section
/-! SUPPORT. The synthetic test configuration CFG-T (95 section 2), transcribed line by line. It is not the pylxr network, and
nothing of the model refers to it. -/

namespace Sys2Proof.Tests

/-- `x << n`. -/
def sl {σ : Type} (x : σ) (n : Fin 64) : Shifted σ := ⟨x, ⟨.left, n⟩⟩

/-- `x >> n`. -/
def sr {σ : Type} (x : σ) (n : Fin 64) : Shifted σ := ⟨x, ⟨.right, n⟩⟩

/-- `FULLMIX_T` (95 section 2). -/
def fullMixT : FullMix where
  s1a :=
    ⟨⟨.plain (sl .s1 9), [.plain (sr .s1 1), .plain (sl .a 0), .lookup ⟨sr .a 5, [sl .v 0]⟩ 3]⟩,
     [⟨.plain (sl .s1 5), [.plain (sr .s1 3), .lookup ⟨sl .s1 0, [sl .v 0]⟩ 7]⟩]⟩
  slotX := ⟨sl .s1 0, [sl .a 0]⟩
  slotSelf := ⟨⟨.left, 7⟩, [⟨.right, 13⟩]⟩
  slotPos := 2
  asa :=
    ⟨⟨.plain (sl .a 17), [.plain (sr .a 5), .plain (sl .s1 0), .lookup ⟨sl .a 0, [sr .s1 27, sl .v 0]⟩ 3]⟩,
     [⟨.plain (sl .a 13), [.plain (sr .a 3), .lookup ⟨sl .a 0, [sl .s1 0]⟩ 7]⟩]⟩
  s1b :=
    ⟨⟨.plain (sl .s1 7), [.plain (sr .s1 27), .plain (sl .a 0), .lookup ⟨sr .a 3, []⟩ 13]⟩,
     [⟨.plain (sl .s1 3), [.plain (sr .s1 13), .lookup ⟨sl .s1 0, [sl .v 0]⟩ 11]⟩]⟩
  asb :=
    ⟨⟨.plain (sl .a 23), [.plain (sr .a 3), .plain (sl .s1 0), .lookup ⟨sl .a 0, [sl .v 0, sr .s1 3]⟩ 7]⟩,
     [⟨.plain (sl .a 17), [.plain (sr .a 7), .lookup ⟨sl .a 0, [sr .s1 3]⟩ 5]⟩]⟩
  s2 :=
    ⟨⟨.plain (sl .s2 3), [.plain (sr .s2 17), .plain (sl .s1 0), .lookup ⟨sl .a 0, [sr .s2 5, sl .v 0]⟩ 13]⟩,
     [⟨.plain (sl .s2 6), [.plain (sr .s2 13), .lookup ⟨sl .s2 0, []⟩ 11]⟩]⟩
  f1 := ⟨⟨.left, 3⟩, [⟨.right, 1⟩]⟩
  f2 := ⟨.plain (sl .a 9), [.plain (sr .a 7), .plain (sr .s1 1), .lookup ⟨sr .s2 1, [sl .h 0]⟩ 5]⟩

/-- CFG-T (95 section 2). -/
def cfgT : Params := ⟨7, 5, 9, 3, fullMixT⟩

end Sys2Proof.Tests
end

