-- ==== Sys2Proof/Tests/Slice0.lean ====
section
/-! SUPPORT. Tests. Expected results come from the spec's encodings (30 R92 to R96) and its vectors (file 95); each test
names its source. The `witness_` theorems show, for each obligation that has hypotheses, a state and operands that meet
them, one for each clause, at a boundary value where the clause has a range. -/

namespace Sys2Proof.Tests

open Sys2Proof Sys2Proof.Machine

/-! ### Small states -/

/-- The table `T[i] = i` of 256 bytes, only the listed indices filled in. -/
def idCells (is : List Nat) : List Host.Cell := is.map (fun i => (i, BitVec.ofNat 8 i))

/-- After reset, with a table of `size` bytes bound. -/
def bound (size : Nat) (cells : List Host.Cell) : State := State.reset.bindTable (Memory.ofCells size cells)

/-- A context of `K = 8` with the table `T[i] = i` of 256 bytes at the port, in its canonical form. -/
def identityContext : State :=
  { State.reset with table := ⟨256, idCells (List.range' 1 255)⟩ }.startContext 8

/-- A context of `K = 8` in `PASS1` after `n` bytes. -/
def pass1At (n : Nat) : State := { State.reset.startContext 8 with cnt := BitVec.ofNat 32 n }

/-- A context of `K = 8` in `PASS2` after `n` of `m` bytes. -/
def pass2At (n m : Nat) : State :=
  { State.reset.startContext 8 with phase := .pass2, cnt := BitVec.ofNat 32 n, len1 := BitVec.ofNat 32 m }

/-- A context in `DONE`. -/
def doneState : State := { State.reset.startContext 32 with phase := .done }

/-- `STATUS = 0x000F0082` (95 section 3.4). -/
def allErrors : State := { State.reset.startContext 8 with errors := ⟨true, true, true, true⟩ }

/-- A command in flight, with the given events ahead. -/
def busyWith (w : Reg) (es : List Event) : State := { pass1At 0 with busy := true, pend := w, events := es }

/-- The state after one step, or the state itself where the machine stops. -/
def after (s : State) : State :=
  match step s with
  | .next t => t
  | .fault _ => s
  | .refused _ => s

/-- The state after the command word `w`. -/
def afterWord (w : Nat) (s : State) : State := after (s.withFetchWord 32 w)

/-- `STATUS` after the command word `w`. -/
def statusAfter (w : Nat) (s : State) : Reg := statusWord (afterWord w s)

/-- An aligned access at a window offset, taken as the whole address (the block decodes bits 6:0, 20 R61). -/
def readAt (off : Nat) : Event := .access ⟨off, .word, .read⟩

/-! ### Decoding: words written from the formats of 30 R92: OP, must-be-zero bits, operand -/

theorem test_decode_nop : decode 0b0000_0000000000000000000000000000#32 = .ok .nop := by decide
theorem test_decode_init : decode 0b0001_0000000000000000000000_100000#32 = .ok (.init 32) := by decide
theorem test_decode_init_max : decode 0b0001_0000000000000000000000_111111#32 = .ok (.init 63) := by decide
theorem test_decode_fast : decode 0b0010_00000000000000000000_01100001#32 = .ok (.fast 0x61) := by decide
theorem test_decode_pass2 : decode 0b0011_0000000000000000000000000000#32 = .ok .pass2 := by decide
theorem test_decode_full : decode 0b0100_00000000000000000000_11111111#32 = .ok (.full 0xFF) := by decide
theorem test_decode_final : decode 0b0101_0000000000000000000000000000#32 = .ok .final := by decide
theorem test_decode_nop_data : decode 0x00000001#32 = .error .mustBeZero := by decide
theorem test_decode_init_bit6 : decode 0x10000048#32 = .error .mustBeZero := by decide
theorem test_decode_fast_bit8 : decode 0x20000100#32 = .error .mustBeZero := by decide
theorem test_decode_pass2_bit27 : decode 0x38000000#32 = .error .mustBeZero := by decide
theorem test_decode_full_bit8 : decode 0x40000100#32 = .error .mustBeZero := by decide
theorem test_decode_final_bit0 : decode 0x50000001#32 = .error .mustBeZero := by decide
theorem test_decode_reserved_low : decode 0x60000000#32 = .error .reservedOpcode := by decide
theorem test_decode_reserved_high : decode 0xF0000000#32 = .error .reservedOpcode := by decide

/-- The words of program P2 (95 section 7). -/
theorem test_encode :
    [Instr.init 8, .fast 0x61, .pass2, .full 0x63, .final, .nop].map encode =
      [0x10000008#32, 0x20000061#32, 0x30000000#32, 0x40000063#32, 0x50000000#32, 0x00000000#32] := by decide

theorem test_decodeTableWord :
    decodeTableWord 32 0x20000061 = some (.fast 0x61) ∧ decodeTableWord 32 0x60000000 = none := by decide

/-! ### Well-formedness: an ill-formed term for each check, refused -/

theorem test_wf_word_reserved : commandWordWellFormed 0x60000000#32 = false := by decide
theorem test_wf_word_mustBeZero : commandWordWellFormed 0x00000001#32 = false := by decide
theorem test_wf_word_legal : commandWordWellFormed 0x1000003F#32 = true := by decide
theorem test_wf_access_byte : (Access.mk 4 .byte .read).wellFormed = false := by decide
theorem test_wf_access_half : (Access.mk 4 .half .read).wellFormed = false := by decide
theorem test_wf_access_unaligned : (Access.mk 6 .word (.write 0)).wellFormed = false := by decide
theorem test_wf_access_legal : (Access.mk 0x7C .word .read).wellFormed = true := by decide
theorem test_wf_init_zero : (Asm.init 0).wellFormed = false := by decide
theorem test_wf_init_wide : (Asm.init 64).wellFormed = false := by decide
theorem test_wf_fast_wide : (Asm.fast 256).wellFormed = false := by decide
theorem test_wf_full_wide : (Asm.full 256).wellFormed = false := by decide
theorem test_wf_rawWord_wide : (Asm.word (2 ^ 32)).wellFormed = false := by decide
theorem test_wf_offset_high : offsetWellFormed 0x80 = false := by decide
theorem test_wf_offset_unaligned : offsetWellFormed 0x02 = false := by decide
theorem test_wf_line_command : (HostLine.cmd (.fast 256)).wellFormed = false := by decide
theorem test_wf_line_digest : (HostLine.digest 0 [0x61]).wellFormed = false := by decide
theorem test_wf_line_write_offset : (HostLine.wr 0x80 0).wellFormed = false := by decide
theorem test_wf_line_write_value : (HostLine.wr 0x04 (2 ^ 32)).wellFormed = false := by decide
theorem test_wf_line_read : (HostLine.rd 0x02 false).wellFormed = false := by decide

/-! ### `STATUS` after a command (95 section 3.4) -/

/-- From reset: legal and illegal operands of `INIT`, a must-be-zero bit, `NOP`, and commands out of phase. -/
theorem test_status_from_reset :
    [0x10000008, 0x10000020, 0x10000000, 0x10000021, 0x10000048, 0x00000000, 0x20000000, 0x20000100, 0x50000000].map
        (fun w => statusAfter w State.reset)
      = [0x00000082#32, 0x00000202#32, 0x00040000#32, 0x00040000#32, 0x00010000#32, 0x00000000#32, 0x00020000#32,
         0x00010000#32, 0x00020000#32] := by decide +kernel

/-- A second `PASS2`, a second `FINAL`, and an `INIT` that keeps the error bits. -/
theorem test_status_later :
    statusAfter 0x30000000 { pass2At 0 0 with mapBits := 32 } = 0x00020204#32
      ∧ statusAfter 0x50000000 doneState = 0x00020206#32 ∧ statusAfter 0x10000004 allErrors = 0x000F0042#32 := by
  decide +kernel

/-- P3 line 9: `FULL` in `PASS1`. -/
theorem test_status_full_pass1 :
    statusAfter 0x40000001 { pass1At 1 with mapBits := 4, errors := ⟨true, false, false, false⟩ } = 0x01030042#32 := by
  decide +kernel

/-- P3 line 11: `FINAL` with `CNT = 0`, `LEN1 = 1`. -/
theorem test_status_final_len :
    statusAfter 0x50000000 { pass2At 0 1 with mapBits := 4, errors := ⟨true, true, false, false⟩ } = 0x000B0044#32 := by
  decide +kernel

/-- P2 after `PASS2`. -/
theorem test_pass2_latches :
    (afterWord 0x30000000 (pass1At 3)).len1 = 3 ∧ statusAfter 0x30000000 (pass1At 3) = 0x00000084#32 := by decide +kernel

/-- A host write of `0x00020000` to `STATUS` clears `ERR_SEQ` only. -/
theorem test_status_write_clears_seq :
    statusWord (after { allErrors with events := [.access ⟨4, .word, .write 0x00020000#32⟩] }) = 0x000D0082#32 := by
  decide +kernel

/-! ### Register reads (95 section 3.5) and the busy hold (95 P5) -/

theorem test_read_id : State.reset.regRead (registerAt 0x00) = 0x4C585201#32 := by decide
theorem test_read_cmd : (pass1At 3).regRead (registerAt 0x08) = 0 := by decide
theorem test_read_debug_acc :
    ((pass1At 0).setDbgSel 32).regRead .dbgLo = 0xFAFAECEC#32 ∧ ((pass1At 0).setDbgSel 32).regRead .dbgHi = 0xFAFAECEC#32 := by
  decide +kernel

/-- `DIGEST0` after P1: the bytes `1c 93 59 c1` in little-endian order. -/
theorem test_read_digest0 :
    { State.reset with digest := (((State.reset.digest.set 0 0x1C).set 1 0x93).set 2 0x59).set 3 0xC1 }.regRead (.digest 0)
      = 0xC159931C#32 := by decide +kernel

/-- P5: `STATUS` read while `FINAL` is in flight. -/
theorem test_busy_status_before :
    ((after { pass2At 0 0 with busy := true, pend := 0x50000000#32, events := [readAt 0x04] }).replies.head?.bind
      (fun r => r.data)) = some 0x00000085#32 := by decide +kernel

/-- P5: `COUNT` read while busy is held: the step completes the command instead. -/
theorem test_busy_count_held :
    (after (busyWith 0x30000000#32 [readAt 0x0C])).busy = false
      ∧ (after (busyWith 0x30000000#32 [readAt 0x0C])).replies = []
      ∧ (after (busyWith 0x30000000#32 [readAt 0x0C])).events = [readAt 0x0C] := by decide +kernel

/-- A 16-bit access gets ERROR and has no effect (20 R64). -/
theorem test_malformed_write :
    (after { State.reset with events := [.access ⟨0x14, .half, .write 5⟩] }).dbgSel = 0
      ∧ (after { State.reset with events := [.access ⟨0x14, .half, .write 5⟩] }).replies = [⟨.error, none⟩] := by
  decide +kernel

/-- Reset abandons the command in flight (70 R210). -/
theorem test_reset_abandons :
    (after (busyWith 0x30000000#32 [.reset])).phase = .idle ∧ (after (busyWith 0x30000000#32 [.reset])).busy = false := by
  decide +kernel

/-! ### Operands (95 sections 3.1, 3.2) -/

theorem test_injection :
    injection (zext64 0x61) (zext64 0x8D) = 0x0EA9D8B1#64 ∧ injection (zext64 0xFF) (zext64 0xFF) = 0x00F0FF0F#64
      ∧ injection (zext64 0x00) (zext64 0xFF) = 0x0FFFFFF0#64 ∧ injection (zext64 0xFF) (zext64 0x00) = 0x0F0F00FF#64 := by
  decide

theorem test_index_ones :
    [1, 4, 8, 16, 32].map (fun k => tableIndex k 0xFFFFFFFFFFFFFFFF#64)
      = [0x1#32, 0xF#32, 0xFF#32, 0xFFFF#32, 0xFFFFFFFF#32] := by decide

theorem test_index_seed :
    [1, 4, 8, 16, 32].map (fun k => tableIndex k Config.seed) = [0x0#32, 0xC#32, 0xEC#32, 0xECEC#32, 0xFAFAECEC#32] := by
  decide

/-! ### Table memory -/

/-- A digest's first table may be bound after `INIT` (70 R212); another table bound then leaves the old one as a possible
answer (20 R69), and a recorded write stays recorded. -/
theorem test_bind_after_init :
    (((State.reset.accept 0x10000001#32).bindTable (Memory.ofCells 2 [(1, 1)])).past = [])
      ∧ ((((bound 2 [(1, 1)]).accept 0x10000001#32).bindTable (Memory.ofCells 2 [(0, 1)])).past = [⟨2, [(1, 1)]⟩])
      ∧ (((((bound 2 [(1, 1)]).accept 0x10000001#32).writeTable 1 5).bindTable (Memory.ofCells 2 [])).past
        = [⟨2, [(1, 5)]⟩, ⟨2, [(1, 1)]⟩]) := by decide

theorem test_memory_zero_unlisted :
    ((Memory.ofCells 4 [(2, 7)]).write 2 0).cells = [] ∧ ((Memory.ofCells 4 [(2, 7)]).write 4 1).cells = [(2, 7)] := by decide

theorem test_memory_end :
    (Memory.ofCells 4 [(3, 7)]).read? 3 = some 7 ∧ (Memory.ofCells 4 [(3, 7)]).read? 4 = none := by decide

theorem test_reset_memory_wf : State.reset.table.wf = true := by decide

/-! ### Witnesses for the statements' hypotheses -/

theorem witness_EncodeOfDecode :
    decode 0x10000000#32 = .ok (.init 0) ∧ decode 0x400000FF#32 = .ok (.full 0xFF) := by decide

theorem witness_OpcodeMapSelects :
    (⟨0x10000000#32, 0xFFFFFFC0#32⟩ : OpcodeRow) ∈ opcodeMap ∧ 0x1000003F#32 &&& 0xFFFFFFC0#32 = 0x10000000#32
      ∧ decode 0x1000003F#32 = .ok (.init 63) := by decide

/-- One word for each clause of each kind, at its lowest and its highest opcode. -/
theorem witness_IllegalEncodingsRejected :
    6 ≤ (0x60000000#32).toNat / 2 ^ 28 ∧ 6 ≤ (0xFFFFFFFF#32).toNat / 2 ^ 28
      ∧ ((0x00000001#32).toNat / 2 ^ 28 ∈ [0, 3, 5] ∧ (0x00000001#32).toNat % 2 ^ 28 ≠ 0)
      ∧ ((0x5FFFFFFF#32).toNat / 2 ^ 28 ∈ [0, 3, 5] ∧ (0x5FFFFFFF#32).toNat % 2 ^ 28 ≠ 0)
      ∧ ((0x10000040#32).toNat / 2 ^ 28 = 1 ∧ (0x10000040#32).toNat % 2 ^ 28 / 2 ^ 6 ≠ 0)
      ∧ ((0x20000100#32).toNat / 2 ^ 28 ∈ [2, 4] ∧ (0x20000100#32).toNat % 2 ^ 28 / 2 ^ 8 ≠ 0)
      ∧ ((0x4FFFFFFF#32).toNat / 2 ^ 28 ∈ [2, 4] ∧ (0x4FFFFFFF#32).toNat % 2 ^ 28 / 2 ^ 8 ≠ 0) := by decide

theorem witness_InitStartsOrAbandons :
    (1 ≤ (1 : BitVec 6).toNat ∧ (1 : BitVec 6).toNat ≤ 32) ∧ (1 ≤ (32 : BitVec 6).toNat ∧ (32 : BitVec 6).toNat ≤ 32)
      ∧ (0 : BitVec 6).toNat < 1 ∧ 32 < (33 : BitVec 6).toNat ∧ 32 < (63 : BitVec 6).toNat := by decide

theorem witness_Pass2SwitchesPass :
    (pass1At 3).phase = .pass1 ∧ State.reset.phase ≠ .pass1 ∧ (pass2At 0 0).phase ≠ .pass1 ∧ doneState.phase ≠ .pass1 := by
  decide

/-- In `PASS1` at the last slot and at the wrap to slot 0, and outside `PASS1`. -/
theorem witness_FastAbsorbsByte :
    ((pass1At 31).phase = .pass1 ∧ (31 : Slot).val = (pass1At 31).cnt.toNat % 32)
      ∧ ((pass1At 32).phase = .pass1 ∧ (0 : Slot).val = (pass1At 32).cnt.toNat % 32)
      ∧ ((pass2At 1 3).phase ≠ .pass1 ∧ (1 : Slot).val = (pass2At 1 3).cnt.toNat % 32) := by decide

theorem witness_FullAbsorbsByte :
    ((pass2At 31 33).phase = .pass2 ∧ (31 : Slot).val = (pass2At 31 33).cnt.toNat % 32)
      ∧ ((pass2At 32 33).phase = .pass2 ∧ (0 : Slot).val = (pass2At 32 33).cnt.toNat % 32)
      ∧ ((pass1At 1).phase ≠ .pass2 ∧ (1 : Slot).val = (pass1At 1).cnt.toNat % 32) := by decide

theorem witness_FinalRunsSlotsDownward :
    ((pass2At 3 3).phase = .pass2 ∧ (pass2At 3 3).cnt = (pass2At 3 3).len1)
      ∧ ((pass2At 0 0).phase = .pass2 ∧ (pass2At 0 0).cnt = (pass2At 0 0).len1) := by decide

theorem witness_FinalFrame : (pass2At 33 33).phase = .pass2 ∧ (pass2At 33 33).cnt = (pass2At 33 33).len1 := by decide

theorem witness_FinalLengthCheck : (pass2At 0 1).phase = .pass2 ∧ (pass2At 0 1).cnt ≠ (pass2At 0 1).len1 := by decide

/-- With no byte at all, and with 32. -/
theorem witness_ShortInputsKeepRegistersZero :
    mapBitsLegal 1 = true ∧ mapBitsLegal 32 = true ∧ ([] : List Byte).length ≤ 32
      ∧ (List.replicate 32 (0x61 : Byte)).length ≤ 32 := by decide

/-- Two states that differ in `S3`, in another slot, in `CNT` and in the slot's number. -/
theorem witness_FullStepReadsItsOperandsOnly :
    let s := pass2At 0 3
    let s' := { pass2At 5 3 with s3 := 1, hs := (pass2At 5 3).hs.set 9 7 }
    s'.acc = s.acc ∧ s'.s1 = s.s1 ∧ s'.s2 = s.s2 ∧ s'.hs[(5 : Slot)] = s.hs[(0 : Slot)] ∧ s'.mapBits = s.mapBits
      ∧ s'.table = s.table ∧ s'.past = s.past ∧ s'.reads = s.reads ∧ s' ≠ s := by decide

/-- Two states that differ outside the carried state. -/
theorem witness_Pass2DependsOnCarriedState :
    let s := { pass2At 0 3 with table := Memory.ofCells 256 [(7, 7)] }
    let s' := { s with len1 := 9, dbgSel := 3, errors := ⟨true, true, true, true⟩ }
    s.phase = .pass2 ∧ s'.phase = .pass2 ∧ SameDatapath s s' ∧ s'.cnt = s.cnt ∧ s'.mapBits = s.mapBits
      ∧ s'.table = s.table ∧ s.TableStable ∧ s'.TableStable := by
  unfold SameDatapath State.TableStable
  decide

/-- At the smallest and at the widest `K`, each with a table of exactly `2^K` bytes and nothing but the commands. -/
theorem witness_DigestProgramComputesDigest :
    let s := fun (k : BitVec 6) (x : List Byte) =>
      { bound (2 ^ k.toNat) [(1, 1)] with events := digestProgram k x }
    (1 ≤ (1 : BitVec 6).toNat ∧ (1 : BitVec 6).toNat ≤ 32 ∧ (s 1 []).busy = false
        ∧ (s 1 []).events = [] ++ digestProgram 1 [] ∧ (∀ e ∈ digestProgram 1 [], e.changesTable = false)
        ∧ (digestProgram 1 []).filter (fun e => !e.isBystander) = digestProgram 1 []
        ∧ 2 ^ (1 : BitVec 6).toNat ≤ (tableAfter (s 1 []).table []).size)
      ∧ (1 ≤ (32 : BitVec 6).toNat ∧ (32 : BitVec 6).toNat ≤ 32 ∧ (s 32 [0x61]).busy = false
        ∧ (s 32 [0x61]).events = [] ++ digestProgram 32 [0x61] ∧ (∀ e ∈ digestProgram 32 [0x61], e.changesTable = false)
        ∧ (digestProgram 32 [0x61]).filter (fun e => !e.isBystander) = digestProgram 32 [0x61]
        ∧ 2 ^ (32 : BitVec 6).toNat ≤ (tableAfter (s 32 [0x61]).table []).size) :=
  ⟨⟨by decide, by decide, rfl, rfl, by simp [digestProgram, absorb1, absorb2, commandWrite, registerWrite, Event.changesTable],
      rfl, by decide⟩,
    by decide, by decide, rfl, rfl, by simp [digestProgram, absorb1, absorb2, commandWrite, registerWrite, Event.changesTable],
    rfl, by decide⟩

/-- The program of one byte as P2 writes it, its table bound first and its digest read last, with reads, a poll and a completion
among its commands; the table stays from then on. -/
theorem witness_DigestProgramComputesDigest_program :
    let pre : List Event := [.bindTable 2 [(0, 9)], readAt 0x04, .writeTable 1 1]
    let es : List Event :=
      [ commandWrite (encode (.init 1)), readAt 0x04, .complete, commandWrite (encode (.fast 0x61)), .poll 2
      , commandWrite (encode .pass2), commandWrite (encode (.full 0x61)), .complete, readAt 0x00
      , commandWrite (encode .final), .poll 1, readAt 0x20 ]
    ({ State.reset with events := pre ++ es } : State).busy = false ∧ (∀ e ∈ pre, e.isBystander = true)
      ∧ es.filter (fun e => !e.isBystander) = digestProgram 1 [0x61] ∧ (∀ e ∈ es, e.changesTable = false)
      ∧ tableAfter State.reset.table pre = ⟨2, [(0, 9), (1, 1)]⟩
      ∧ 2 ^ (1 : BitVec 6).toNat ≤ (tableAfter State.reset.table pre).size :=
  ⟨rfl, by decide, rfl, by simp [commandWrite, registerWrite, readAt, Event.changesTable], by decide, by decide⟩

/-- The same commands with changes of the table among them. -/
theorem witness_DigestProgramComputesDigest_bystanders :
    let es : List Event :=
      [ commandWrite (encode (.init 1)), .bindTable 2 [(1, 1)], commandWrite (encode (.fast 0x61))
      , commandWrite (encode .pass2), .writeTable 0 9, commandWrite (encode (.full 0x61)), commandWrite (encode .final) ]
    ({ State.reset with events := [] ++ es } : State).busy = false
      ∧ es.filter (fun e => !e.isBystander) = digestProgram 1 [0x61] := ⟨rfl, rfl⟩

/-- An illegal word, each error, and a command that meets none, in flight with the completion next; and the other ways to
the completion: a held access, a poll out of busy reads, and nothing left. -/
theorem witness_ErrorsPreciseAndPrioritised :
    let s := fun (w : Reg) (u : State) => { u with busy := true, pend := w, events := [.complete] }
    (∀ w u, (s w u).Completes [])
      ∧ (∀ w, (busyWith w [readAt 0x0C]).Completes [readAt 0x0C]) ∧ (∀ w, (busyWith w [.poll 0]).Completes [.poll 0])
      ∧ (∀ w, (busyWith w []).Completes [])
      ∧ decode (s 0x20000100 State.reset).pend = .error .mustBeZero
      ∧ (decode (s 0x20000000 State.reset).pend = .ok (.fast 0) ∧ errorOf (.fast 0) (s 0x20000000 State.reset) = some .seq)
      ∧ (decode (s 0x10000000 State.reset).pend = .ok (.init 0) ∧ errorOf (.init 0) (s 0x10000000 State.reset) = some .cfg)
      ∧ (decode (s 0x10000021 doneState).pend = .ok (.init 33) ∧ errorOf (.init 33) (s 0x10000021 doneState) = some .cfg)
      ∧ (decode (s 0x10000020 doneState).pend = .ok (.init 32) ∧ errorOf (.init 32) (s 0x10000020 doneState) = none)
      ∧ (decode (s 0x50000000 (pass2At 0 1)).pend = .ok .final ∧ errorOf .final (s 0x50000000 (pass2At 0 1)) = some .len)
      ∧ errorOf .final (s 0x50000000 (pass1At 1)) = some .seq :=
  ⟨fun _ _ => ⟨rfl, .inl rfl⟩, fun _ => ⟨rfl, .inr ⟨rfl, .inr (.inr ⟨_, _, rfl, rfl⟩)⟩⟩,
    fun _ => ⟨rfl, .inr ⟨rfl, .inr (.inl ⟨_, rfl⟩)⟩⟩, fun _ => ⟨rfl, .inr ⟨rfl, .inl rfl⟩⟩, by decide⟩

/-- One word for each clause: reserved opcodes at both ends, and a must-be-zero bit of each format; with the completion next,
and forced by the next command's write. -/
theorem witness_IllegalWordRaisesIllOnly :
    let s := fun w : Reg => busyWith w [.complete]
    (∀ w, (s w).Completes []) ∧ (∀ w v, (busyWith w [commandWrite v]).Completes [commandWrite v])
      ∧ 6 ≤ (s 0x60000000).pend.toNat / 2 ^ 28 ∧ 6 ≤ (s 0xFFFFFFFF).pend.toNat / 2 ^ 28
      ∧ ((s 0x00000001).pend.toNat / 2 ^ 28 ∈ [0, 3, 5] ∧ (s 0x00000001).pend.toNat % 2 ^ 28 ≠ 0)
      ∧ ((s 0x10000040).pend.toNat / 2 ^ 28 = 1 ∧ (s 0x10000040).pend.toNat % 2 ^ 28 / 2 ^ 6 ≠ 0)
      ∧ ((s 0x20000100).pend.toNat / 2 ^ 28 ∈ [2, 4] ∧ (s 0x20000100).pend.toNat % 2 ^ 28 / 2 ^ 8 ≠ 0) :=
  ⟨fun _ => ⟨rfl, .inl rfl⟩, fun _ _ => ⟨rfl, .inr ⟨rfl, .inr (.inr ⟨_, _, rfl, rfl⟩)⟩⟩, by decide⟩

/-- Both ways of clearing a bit: reset, and a host write of a 1. -/
theorem witness_ErrorBitsSticky :
    let s := { allErrors with events := [.reset] }
    let u := { allErrors with events := [.access ⟨4, .word, .write 0x00080000#32⟩] }
    (step s = .next (after s) ∧ s.errors.get .ill = true ∧ (after s).errors.get .ill = false)
      ∧ (step u = .next (after u) ∧ u.errors.get .len = true ∧ (after u).errors.get .len = false) :=
  ⟨⟨rfl, by decide +kernel, by decide +kernel⟩, rfl, by decide +kernel, by decide +kernel⟩

/-- An `INIT`, a `FAST` and a `FULL` completing, and reset, each from a state with a register that is not 0. -/
theorem witness_DatapathChangesByCommandsOnly :
    let s := { busyWith 0x10000008#32 [.complete] with s1 := 1 }
    let u := { busyWith 0x00000000#32 [.reset] with s1 := 1 }
    let v := { busyWith 0x20000061#32 [.complete] with s3 := 1 }
    let w := { busyWith 0x40000061#32 [.complete] with s3 := 1, phase := .pass2 }
    (step s = .next (after s) ∧ ¬ SameDatapath s (after s)) ∧ (step u = .next (after u) ∧ ¬ SameDatapath u (after u))
      ∧ (step v = .next (after v) ∧ ¬ SameDatapath v (after v)) ∧ (step w = .next (after w) ∧ ¬ SameDatapath w (after w)) := by
  refine ⟨⟨rfl, ?_⟩, ⟨rfl, ?_⟩, ⟨rfl, ?_⟩, rfl, ?_⟩ <;>
    exact fun h => absurd h.2.2.1 (by decide +kernel)

/-- The step in which a `FINAL` with equal counts completes. -/
theorem step_final {s : State} {es : List Event} (hb : s.busy = true) (he : s.events = .complete :: es)
    (hd : decode s.pend = .ok .final) (hp : s.phase = .pass2) (hc : s.cnt = s.len1) :
    step s = .next ((finalizeDown Config.params 32 (Nat.le_refl 32) (s.setEvents es).clearBusy).setPhase .done) := by
  simp [step, schedule, he, hb, completeCommand, hd, exec, execFinal, hp, hc]

/-- A `FINAL` completing, for every network: `S2 = 1` and `S3 = 0` cannot both stay (42 R153). -/
theorem witness_DatapathChangesByCommandsOnly_final :
    let s := { busyWith 0x50000000#32 [.complete] with s2 := 1, phase := .pass2 }
    ∃ t, step s = .next t ∧ ¬ SameDatapath s t := by
  intro s
  refine ⟨_, step_final rfl rfl (by decide) rfl rfl, fun h => ?_⟩
  have hg := finalizeDown_fixed Config.params 31 (Nat.le_refl 32) (s.setEvents []).clearBusy h.1 h.2.2.2.1 h.2.2.2.2
  have h3 : (s.setEvents []).clearBusy.s3 = 0 := rfl
  rw [h3, shiftXor_zero] at hg
  exact absurd hg (by decide)

/-- An `INIT` completing, and reset, each from a digest that is not 0. -/
theorem witness_DigestChangesAtInitAndFinalOnly :
    let s := { busyWith 0x10000008#32 [.complete] with digest := Vector.replicate 32 5 }
    let u := { busyWith 0x00000000#32 [.reset] with digest := Vector.replicate 32 5 }
    (step s = .next (after s) ∧ (after s).digest ≠ s.digest) ∧ (step u = .next (after u) ∧ (after u).digest ≠ u.digest) :=
  ⟨⟨rfl, by decide +kernel⟩, rfl, by decide +kernel⟩

/-- Every digest byte that `FINAL` writes under a table of zeros is 0; byte 31 is the first. -/
theorem final_of_zeros (p : Params) {s : State} (ht : s.table = Memory.ofCells (2 ^ 32) []) (hp : s.past = []) :
    (finalizeDown p 32 (Nat.le_refl 32) s).digest[(31 : Slot)] = 0 := by
  have hz : ∀ (n : Nat) (i : BitVec 32), (Memory.ofCells (2 ^ 32) []).answer n i = 0 := fun n i =>
    Memory.answer_of_read (by simp [Memory.ofCells, Memory.read?, i.isLt, cellAt, Memory.unlisted]) n
  have hl : ∀ (u : State) (n : Nat) (x : Word), u.table = s.table → u.past = s.past → u.lookup n x = 0 := by
    intro u n x h1 h2
    rw [State.lookup, State.tableRead, h1, h2, ht, hp, versionFor_nil, hz]
  rw [finalizeDown, finalizeDown_digest_above _ _ _ _ (by decide)]
  refine (finalIteration_digest_self p 31 s).trans ?_
  simp only [hl (fullStep p s.hs[(31 : Slot)] 31 s) _ _ rfl rfl, BitVec.xor_self]
  rfl

/-- A `FINAL` completing, for every network: with a table of zeros every digest byte becomes 0. -/
theorem witness_DigestChangesAtInitAndFinalOnly_final :
    let s := { busyWith 0x50000000#32 [.complete] with
      phase := .pass2, digest := Vector.replicate 32 5, table := Memory.ofCells (2 ^ 32) [] }
    ∃ t, step s = .next t ∧ t.digest ≠ s.digest := by
  intro s
  refine ⟨_, step_final rfl rfl (by decide) rfl rfl, fun h => ?_⟩
  have hd := final_of_zeros Config.params (s := (s.setEvents []).clearBusy) rfl rfl
  have he := congrArg (fun d => d[(31 : Slot)]) h
  exact absurd (hd.symm.trans he) (by decide)

/-- A step into each phase that the invariant constrains. -/
theorem witness_PhaseInvariantKept :
    (busyWith 0x30000000#32 [.complete]).PhaseInv
      ∧ step (busyWith 0x30000000#32 [.complete]) = .next (after (busyWith 0x30000000#32 [.complete]))
      ∧ (after (busyWith 0x30000000#32 [.complete])).phase = .pass2 ∧ doneState.PhaseInv ∧ (pass2At 1 3).PhaseInv := by
  refine ⟨?_, rfl, by decide +kernel, ?_, ?_⟩ <;> (unfold State.PhaseInv; decide)

/-- The invariant is not every state's. -/
theorem test_PhaseInv_refutable : ¬ ({ doneState with cnt := 1 } : State).PhaseInv := by
  unfold State.PhaseInv
  decide

theorem witness_MemoryCanonicalKept :
    let s := { bound 4 [(2, 7)] with events := [.writeTable 2 0] }
    s.MemoryWf ∧ step s = .next (after s) ∧ (after s).table = ⟨4, []⟩ ∧ (after s).past = [⟨4, [(2, 7)]⟩] := by
  refine ⟨?_, rfl, by decide +kernel, by decide +kernel⟩
  unfold State.MemoryWf
  decide

theorem witness_DigestClearKept :
    (busyWith 0x30000000#32 [.complete]).DigestClear
      ∧ step (busyWith 0x30000000#32 [.complete]) = .next (after (busyWith 0x30000000#32 [.complete])) := by
  refine ⟨?_, rfl⟩
  unfold State.DigestClear
  decide

/-- The four ways to the completion step. -/
theorem witness_StepRunsDecodedCommand :
    (busyWith 0x20000061#32 [.complete]).busy = true ∧ decode (busyWith 0x20000061#32 [.complete]).pend = .ok (.fast 0x61)
      ∧ (busyWith 0x20000061#32 [.complete]).events = .complete :: []
      ∧ (busyWith 0x20000061#32 [readAt 0x0C]).events = .access ⟨0x0C, .word, .read⟩ :: []
      ∧ heldWhileBusy ⟨0x0C, .word, .read⟩ = true ∧ heldWhileBusy ⟨0x04, .word, .write 0⟩ = true
      ∧ (busyWith 0x20000061#32 [.poll 0]).events = .poll 0 :: [] ∧ (busyWith 0x20000061#32 []).events = [] := by decide

theorem witness_FetchedWordRunsNext :
    0x50000000 < 2 ^ 32 ∧ decode (BitVec.ofNat 32 0x50000000) = .ok .final
      ∧ (0x400000FF < 2 ^ 32 ∧ decode (BitVec.ofNat 32 0x400000FF) = .ok (.full 0xFF)) := by decide

theorem witness_CommandWriteAccepted :
    let s := { State.reset with events := [commandWrite 0x10000008#32] }
    s.busy = false ∧ s.events = commandWrite 0x10000008#32 :: [] := ⟨rfl, rfl⟩

/-- A read of `ID`, a read of `STATUS`, and accesses that are neither: another register, a write, a byte access; and a poll with
one busy read, with none, and with `BUSY = 0`. -/
theorem witness_BusyHold :
    (busyWith 0x00000000#32 [readAt 0x00]).busy = true
      ∧ (busyWith 0x00000000#32 [readAt 0x00]).events = .access ⟨0x00, .word, .read⟩ :: []
      ∧ (Access.mk 0x00 .word .read).wellFormed = true ∧ registerAt (windowOffset 0x00) = .id
      ∧ (Access.mk 0x04 .word .read).wellFormed = true ∧ registerAt (windowOffset 0x04) = .status
      ∧ registerAt (windowOffset 0x0C) ≠ .id ∧ registerAt (windowOffset 0x0C) ≠ .status
      ∧ (Access.mk 0x04 .word (.write 0)).op ≠ .read ∧ (Access.mk 0x04 .byte .read).wellFormed = false
      ∧ (busyWith 0x00000000#32 [.poll 1]).busy = true ∧ (busyWith 0x00000000#32 [.poll 1]).events = .poll 1 :: []
      ∧ (busyWith 0x00000000#32 [.poll 0]).busy = true ∧ (busyWith 0x00000000#32 [.poll 0]).events = .poll 0 :: []
      ∧ { State.reset with events := [.poll 3] }.busy = false
      ∧ { State.reset with events := [.poll 3] }.events = .poll 3 :: [] := by decide

theorem witness_AcceptedCommandsComplete :
    (busyWith 0x50000000#32 [.poll 3, readAt 0x04]).busy = true
      ∧ .reset ∉ (busyWith 0x50000000#32 [.poll 3, readAt 0x04]).events := by decide

theorem witness_ResetEventResets : (busyWith 0x50000000#32 [.reset]).events = .reset :: [] := rfl

theorem witness_ReadOnlyRegisters :
    0x40 ≤ (0x40 : BitVec 7).toNat ∧ 0x40 ≤ (0x7C : BitVec 7).toNat ∧ ¬ 0x40 ≤ (0x3C : BitVec 7).toNat := by decide

/-- One offset for each clause: `CMD`, `STATUS`, `DBG_SEL`, and at both ends of the rest. -/
theorem witness_HostRegisterWrites :
    let s := fun off : BitVec 7 => { State.reset with events := [registerWrite off 0xFFFFFFFF#32] }
    (∀ off, (s off).busy = false ∧ (s off).events = registerWrite off 0xFFFFFFFF#32 :: [])
      ∧ (0x08 : BitVec 7).toNat % 4 = 0 ∧ (0x04 : BitVec 7).toNat % 4 = 0 ∧ (0x14 : BitVec 7).toNat % 4 = 0
      ∧ ((0x00 : BitVec 7).toNat % 4 = 0 ∧ (0x00 : BitVec 7) ≠ 0x04 ∧ (0x00 : BitVec 7) ≠ 0x08 ∧ (0x00 : BitVec 7) ≠ 0x14)
      ∧ ((0x7C : BitVec 7).toNat % 4 = 0 ∧ (0x7C : BitVec 7) ≠ 0x04 ∧ (0x7C : BitVec 7) ≠ 0x08 ∧ (0x7C : BitVec 7) ≠ 0x14) :=
  ⟨fun _ => ⟨rfl, rfl⟩, by decide⟩

theorem witness_ReadsHaveNoSideEffect :
    let s := { State.reset with events := [registerRead 0x7C] }
    s.busy = false ∧ (0x7C : BitVec 7).toNat % 4 = 0 ∧ s.events = registerRead 0x7C :: [] := ⟨rfl, by decide, rfl⟩

/-- A byte read at an aligned offset, and a word write at an unaligned one. -/
theorem witness_MalformedAccessErrors :
    let s := fun a : Access => { State.reset with events := [.access a] }
    let a : Access := ⟨0x04, .byte, .read⟩
    let b : Access := ⟨0x05, .word, .write 1⟩
    ((s a).busy = false ∧ (s a).events = .access a :: [] ∧ (a.width ≠ .word ∨ a.addr % 4 ≠ 0) ∧ a.op = .read)
      ∧ ((s b).busy = false ∧ (s b).events = .access b :: [] ∧ (b.width ≠ .word ∨ b.addr % 4 ≠ 0)
        ∧ b.op = .write 1) := by decide

theorem witness_LookupIndexInRange :
    (1 ≤ (1 : BitVec 6).toNat ∧ (1 : BitVec 6).toNat ≤ 32) ∧ (1 ≤ (32 : BitVec 6).toNat ∧ (32 : BitVec 6).toNat ≤ 32) := by
  decide

theorem witness_StableLookupReadsTheTable :
    ({ bound 2 [(1, 1)] with mapBits := 1 } : State).TableStable
      ∧ mapBitsLegal ({ bound 2 [(1, 1)] with mapBits := 1 } : State).mapBits = true := by
  unfold State.TableStable
  decide

/-- With no earlier table, and with one. -/
theorem witness_RacedLookupIsOldOrNew :
    let s := bound 4 [(2, 7)]
    let u := s.writeTable 2 9
    (∀ m ∈ s.table :: s.past, (3 : BitVec 32).toNat < m.size) ∧ (∀ m ∈ u.table :: u.past, (3 : BitVec 32).toNat < m.size)
      ∧ u.past ≠ [] := by decide

theorem witness_OnlyHostChangesTable :
    let s := { bound 4 [(2, 7)] with events := [.writeTable 2 9] }
    step s = .next (after s) ∧ (after s).table ≠ s.table := ⟨rfl, by decide +kernel⟩

/-- An index of the table, and the first one beyond it. -/
theorem witness_TableWriteRaces :
    let s := fun i => { bound 4 [(2, 7)] with events := [.writeTable i 9] }
    (∀ i, (s i).events = .writeTable i 9 :: []) ∧ (s 3).table.wf = true ∧ 3 < (s 3).table.size ∧ ¬ 4 < (s 4).table.size := by
  refine ⟨fun _ => rfl, ?_⟩
  decide

/-- Before a table read with no table bound; after one; with a reading command in flight; with a table bound; and with one
bound before. -/
theorem witness_TableBinding :
    let s := { State.reset with events := [.bindTable 4 []] }
    let waits := fun u : State => u.table.size = 0 ∧ u.past = [] ∧ u.reads = u.readsAtInit
      ∧ ¬ (u.busy = true ∧ readsTableWord u.pend = true)
    s.events = .bindTable 4 [] :: [] ∧ waits s ∧ ¬ waits { s with reads := 1 }
      ∧ ¬ waits (busyWith 0x20000061#32 [.bindTable 4 []]) ∧ ¬ waits { s with table := Memory.ofCells 2 [(1, 1)] }
      ∧ ¬ waits { s with past := [Memory.ofCells 2 [(1, 1)]] } := by decide

theorem witness_BoundTableHoldsItsBytes :
    4 ≤ 2 ^ 32 ∧ 2 ^ 32 ≤ 2 ^ 32 ∧ 3 < 4 ∧ 2 ^ 32 - 1 < 2 ^ 32 ∧ 4 ≤ 4
      ∧ (Memory.ofCells 4 [(3, 1), (3, 2), (4, 9)]).read? 3 = some 2 := by decide

theorem witness_AcceptedInitStartsTableInterval :
    let s := { (bound 4 [(2, 7)]).writeTable 2 9 with events := [commandWrite (encode (.init 0))] }
    s.busy = false ∧ s.events = commandWrite (encode (.init 0)) :: [] ∧ s.past ≠ [] := ⟨rfl, rfl, by decide⟩

theorem witness_CanonicalMemoryExt :
    (Memory.ofCells 4 [(2, 7), (1, 3)]).wf = true ∧ (Memory.ofCells 4 [(1, 3), (3, 0), (2, 7)]).wf = true
      ∧ Memory.ofCells 4 [(1, 3), (3, 0), (2, 7)] = Memory.ofCells 4 [(2, 7), (1, 3)] := by decide

/-! ### CFG-T vectors (95 sections 4 to 7) -/

/-- Section 4, smallest table: `T = [0, 1]`, `INIT 1`, `FAST 0xFF`. -/
theorem test_fast_smallest_table :
    (fastStep cfgT (zext64 0xFF) 0 ((bound 2 [(1, 1)]).startContext 1)).acc = 0x7AA1A11A15BEB188#64 := by decide +kernel

/-- Section 4, all-zero table: `INIT 8`, `FAST 0x61`. -/
theorem test_fast_zero_table :
    (fastStep cfgT (zext64 0x61) 0 ((bound 256 []).startContext 8)).hs[0] = 0x7AA1A11A1CD0A106#64 := by decide +kernel

/-- Section 7, P4: the 33rd `FAST` takes `HS[0]` into `S1`, and the rotation moves it to `S2`. -/
theorem test_fast_slot_wrap :
    let s := (bound 16 []).startContext 4
    (fastStep cfgT (zext64 0x20) (slotOf 32) { s with hs := s.hs.set 0 0x7AA1A11A12D9D917#64 }).s2
      = 0x7AA1A11A12D9D917#64 := by decide +kernel

/-- Section 5: `FULL 0x00` after `INIT 8; PASS2` on the identity table. -/
theorem test_full_first :
    let t := fullStep cfgT 0 0 identityContext
    t.acc = 0xCC0E93F6ED708DF2#64 ∧ t.s1 = 0 ∧ t.s2 = 0xF8389F757ECDBD38#64 ∧ t.s3 = 0xE63BACB8E6E8309C#64
      ∧ t.hs[0] = 0xBAF82CEE3AF82196#64 := by decide +kernel

/-- Section 6: the first iteration of P1 writes `DIGEST[31] = 0x64`. -/
theorem test_final_first_iteration :
    (finalIteration cfgT 31 identityContext).digest[31] = 0x64#8 := by
  decide +kernel

/-- Section 2: the lines of `FULLMIX_T` hold 11 `B(...)` terms: two each in `S1a`, `ASa`, `S1b`, `ASb` and `S2`, and one in
`F2` (the sentence below them says 10, log 27). -/
theorem test_full_lookups : cfgT.fullMix.lookups = 2 + 2 + 2 + 2 + 2 + 1 := by decide

/-! ### The assembler's text (30 R98 to R100) -/

/-- One table to bind, and no timing given. -/
def here : Surroundings := ⟨[("T2".toList, 2, [(1, 1)])], []⟩

/-- One line of each form, an assembler error (log 29), and a line without a command. -/
theorem test_parse_lines :
    ["  init 0x8 ; start", "DIGEST 8, \"abc\"", "ABSORB1 [0x00, 1]", ".word 0x70000000", "INIT 0", "   ; nothing"].map
        (fun l => parseLine here 0 l.toList)
      = [some (some (.cmd (.init 8))), some (some (.digest 8 [0x61, 0x62, 0x63])), some (some (.absorb1 [0, 1])),
         some (some (.cmd (.word 0x70000000))), none, some none] := by decide +kernel

/-- Program P5 (95 section 7), with its table named. -/
theorem test_parse_program :
    parseProgram here "BIND T2\nINIT 8\nWR CMD, 0x50000000 ; FINAL\nRD STATUS -> a\npoll\nRD digest7 -> d".toList
      = some [.bind 2 [(1, 1)], .cmd (.init 8), .wr 0x08 0x50000000, .rd 0x04 false, .poll 0, .rd 0x3C false] := by
  decide +kernel

/-- Each line has its own timing (70 R214, 93 U8): the first read of `STATUS` finds the command in flight, the second does
not. -/
theorem test_parse_timing_per_line :
    parseProgram ⟨[], [⟨false, 0⟩, ⟨true, 0⟩, ⟨false, 2⟩]⟩ "RD 4->a\nRD 4->b\nPOLL".toList
      = some [.rd 0x04 false, .rd 0x04 true, .poll 2] := by decide +kernel

/-- `DIGEST` stands for INIT, the FASTs, PASS2, the FULLs and FINAL (30 R99; the words of P2 for one byte). -/
theorem test_digest_expands :
    digestProgram 8 [0x61] =
      [0x10000008#32, 0x20000061#32, 0x30000000#32, 0x40000061#32, 0x50000000#32].map commandWrite := rfl

end Sys2Proof.Tests
end

section
/-! SUPPORT. What the commands and the steps do to the fields of a context (10 R36): the datapath, `PHASE`, `MAPBITS`, `CNT`,
`LEN1` and `DIGEST`; and the statements on phases and invariants that follow. -/

namespace Sys2Proof.Machine

/-! ### The fields of `SameButStep` and `SameButFinal`, one by one -/

section
variable (p : Params) (v : Word) (i : Slot) (s : State)

@[simp] theorem fastStep_phase : (fastStep p v i s).phase = s.phase := rfl
@[simp] theorem fastStep_mapBits : (fastStep p v i s).mapBits = s.mapBits := rfl
@[simp] theorem fastStep_len1 : (fastStep p v i s).len1 = s.len1 := rfl
@[simp] theorem fastStep_busy : (fastStep p v i s).busy = s.busy := rfl

@[simp] theorem fullStep_phase : (fullStep p v i s).phase = s.phase := rfl
@[simp] theorem fullStep_mapBits : (fullStep p v i s).mapBits = s.mapBits := rfl
@[simp] theorem fullStep_len1 : (fullStep p v i s).len1 = s.len1 := rfl
@[simp] theorem fullStep_busy : (fullStep p v i s).busy = s.busy := rfl

variable (n : Nat) (h : n ≤ 32)

@[simp] theorem finalizeDown_mapBits : (finalizeDown p n h s).mapBits = s.mapBits := by
  obtain ⟨-, hmap, -⟩ := finalizeDown_same p n h s
  exact hmap

@[simp] theorem finalizeDown_cnt : (finalizeDown p n h s).cnt = s.cnt := by
  obtain ⟨-, -, hcnt, -⟩ := finalizeDown_same p n h s
  exact hcnt

@[simp] theorem finalizeDown_len1 : (finalizeDown p n h s).len1 = s.len1 := by
  obtain ⟨-, -, -, hlen, -⟩ := finalizeDown_same p n h s
  exact hlen

@[simp] theorem finalizeDown_busy : (finalizeDown p n h s).busy = s.busy := by
  obtain ⟨-, -, -, -, hbusy, -⟩ := finalizeDown_same p n h s
  exact hbusy

end

/-! ### What a command does, as one equation per command -/

section
variable (s : State)

/-- `INIT K` starts a context or leaves it (40 R111). -/
theorem exec_init (k : BitVec 6) :
    exec (.init k) s = .next (if mapBitsLegal k then s.startContext k else (s.setPhase .idle).raise .cfg) := by
  simp only [exec, execInit]
  split <;> rfl

/-- `FAST V` takes its step in `PASS1` only (41 R134). -/
theorem exec_fast (v : Byte) :
    exec (.fast v) s =
      .next (if s.phase = .pass1 then (fastStep Config.params (zext64 v) s.idx s).countByte else s.raise .seq) := by
  simp only [exec, execFast]
  split <;> rfl

/-- `PASS2` switches the pass in `PASS1` only (40 R112). -/
theorem exec_pass2 : exec .pass2 s = .next (if s.phase = .pass1 then s.startPass2 else s.raise .seq) := by
  simp only [exec, execPass2]
  split <;> rfl

/-- `FULL V` takes its step in `PASS2` only (42 R156). -/
theorem exec_full (v : Byte) :
    exec (.full v) s =
      .next (if s.phase = .pass2 then (fullStep Config.params (zext64 v) s.idx s).countByte else s.raise .seq) := by
  simp only [exec, execFull]
  split <;> rfl

/-- `FINAL` finalizes in `PASS2` with equal counts only (43 R170, R173). -/
theorem exec_final :
    exec .final s =
      .next (if s.phase = .pass2 then
          if s.cnt = s.len1 then (finalizeDown Config.params 32 (Nat.le_refl 32) s).setPhase .done else s.raise .len
        else s.raise .seq) := by
  simp only [exec, execFinal]
  split
  · split <;> rfl
  · rfl

end

/-- Settles O23: each command's equation gives its next state, and the phase of that state. -/
theorem phaseTransitions : Obligations.PhaseTransitions := by
  refine ⟨rfl, fun i s => ?_⟩
  cases i with
  | nop => exact ⟨s, rfl, rfl⟩
  | init k =>
    refine ⟨_, exec_init s k, ?_⟩
    simp only [← mapBitsLegal_iff]
    split <;> rfl
  | fast v =>
    refine ⟨_, exec_fast s v, ?_⟩
    split <;> rfl
  | pass2 =>
    refine ⟨_, exec_pass2 s, ?_⟩
    dsimp only
    split <;> rfl
  | full v =>
    refine ⟨_, exec_full s v, ?_⟩
    split <;> rfl
  | final =>
    refine ⟨_, exec_final s, ?_⟩
    by_cases hp : s.phase = .pass2 <;> by_cases hc : s.cnt = s.len1 <;> simp [hp, hc]

/-! ### What a step does to the context -/

/-- `s` and `t` agree on the context: the datapath, `PHASE`, `MAPBITS`, `CNT`, `LEN1` and `DIGEST`. -/
structure SameContext (s t : State) : Prop where
  datapath : SameDatapath s t
  phase : t.phase = s.phase
  mapBits : t.mapBits = s.mapBits
  cnt : t.cnt = s.cnt
  len1 : t.len1 = s.len1
  digest : t.digest = s.digest

/-- Serving an access leaves the context alone: an accepted command has not run yet (10 R32). -/
theorem serve_sameContext (a : Access) (s : State) : SameContext s (serve a s) := by
  obtain ⟨r, h⟩ | ⟨v, r, -, -, -, h⟩ | ⟨v, r, -, -, -, h⟩ | ⟨v, r, -, h⟩ := serve_cases a s <;> rw [h] <;>
    exact ⟨⟨rfl, rfl, rfl, rfl, rfl⟩, rfl, rfl, rfl, rfl, rfl⟩

/-- A step that changes the context takes the reset event, or completes a legal command in flight. -/
theorem step_context_cases {s t : State} (h : step s = .next t) :
    SameContext s t
      ∨ (∃ es, s.events = .reset :: es ∧ t = (s.setEvents es).hardReset)
      ∨ ∃ i es, s.busy = true ∧ decode s.pend = .ok i ∧ exec i (s.setEvents es).clearBusy = .next t := by
  obtain ⟨es, hb, hc, -⟩ | ⟨a, es, -, -, rfl⟩ | ⟨n, es, es', -, rfl⟩ | ⟨es, -, rfl, -⟩ | hreset | ⟨size, cells, es, -, rfl⟩
    | ⟨i, v, es, -, rfl⟩ := step_cases h
  · obtain ⟨i, hd, he⟩ | ⟨r, -, he⟩ := completeCommand_cases (s.setEvents es)
    · exact .inr (.inr ⟨i, es, hb, hd, he.symm.trans hc⟩)
    · obtain rfl := Host.Outcome.next.inj (he.symm.trans hc)
      exact .inl ⟨⟨rfl, rfl, rfl, rfl, rfl⟩, rfl, rfl, rfl, rfl, rfl⟩
  · obtain ⟨hdata, hphase, hmap, hcnt, hlen, hdigest⟩ := serve_sameContext a (s.setEvents es)
    exact .inl ⟨hdata, hphase, hmap, hcnt, hlen, hdigest⟩
  · exact .inl ⟨⟨rfl, rfl, rfl, rfl, rfl⟩, rfl, rfl, rfl, rfl, rfl⟩
  · exact .inl ⟨⟨rfl, rfl, rfl, rfl, rfl⟩, rfl, rfl, rfl, rfl, rfl⟩
  · exact .inr (.inl hreset)
  · exact .inl ⟨⟨rfl, rfl, rfl, rfl, rfl⟩, rfl, rfl, rfl, rfl, rfl⟩
  · exact .inl ⟨⟨rfl, rfl, rfl, rfl, rfl⟩, rfl, rfl, rfl, rfl, rfl⟩

/-! ### The phase invariants (10 R36, items 2 to 4) -/

/-- The invariants speak of `PHASE`, `MAPBITS`, `CNT` and `LEN1` only. -/
theorem SameContext.phaseInv {s t : State} (h : SameContext s t) (hs : s.PhaseInv) : t.PhaseInv := by
  unfold State.PhaseInv
  rwa [h.phase, h.mapBits, h.cnt, h.len1]

/-- The reset values meet the invariants. -/
theorem State.reset_phaseInv : State.reset.PhaseInv :=
  ⟨fun h => absurd rfl h, fun _ => rfl, fun _ => rfl⟩

/-- Every command keeps the phase invariants. -/
theorem exec_phaseInv {i : Instr} {s t : State} (hs : s.PhaseInv) (h : exec i s = .next t) : t.PhaseInv := by
  have ⟨hlegal, hlen, _⟩ := hs
  obtain ⟨-, he⟩ | ⟨k, -, hk, he⟩ | ⟨k, -, -, he⟩ | ⟨v, -, hp, he⟩ | ⟨-, hp, he⟩ | ⟨v, -, hp, he⟩ | ⟨-, hp, hc, he⟩
    | ⟨e, -, he⟩ := exec_cases i s <;> obtain rfl := Host.Outcome.next.inj (he.symm.trans h)
  · exact hs
  · exact ⟨fun _ => hk, fun _ => rfl, fun _ => rfl⟩
  · simp [State.PhaseInv]
  · simp [State.PhaseInv, hp, hlegal, hlen]
  · simp [State.PhaseInv, hp, hlegal]
  · simp [State.PhaseInv, hp, hlegal]
  · simp [State.PhaseInv, hp, hc, hlegal]
  · exact hs

/-- Settles O30: only a reset or a completing command changes what the invariants speak of, and both keep them. -/
theorem phaseInvariantKept : Obligations.PhaseInvariantKept := by
  intro s t hs h
  obtain hsame | ⟨es, -, rfl⟩ | ⟨i, es, -, -, he⟩ := step_context_cases h
  · exact hsame.phaseInv hs
  · exact State.reset_phaseInv
  · exact exec_phaseInv (s := (s.setEvents es).clearBusy) hs he

/-! ### Which commands change the datapath and `DIGEST` (10 R31, R36; 40 R114) -/

/-- No command changes `BUSY`. -/
theorem exec_busy {i : Instr} {s t : State} (h : exec i s = .next t) : t.busy = s.busy := by
  obtain ⟨-, he⟩ | ⟨k, -, -, he⟩ | ⟨k, -, -, he⟩ | ⟨v, -, -, he⟩ | ⟨-, -, he⟩ | ⟨v, -, -, he⟩ | ⟨-, -, -, he⟩
    | ⟨e, -, he⟩ := exec_cases i s <;> obtain rfl := Host.Outcome.next.inj (he.symm.trans h) <;> simp

/-- A command that changes the datapath is an `INIT`, a `FAST`, a `FULL` or a `FINAL`. -/
theorem exec_datapath {i : Instr} {s t : State} (h : exec i s = .next t) (hne : ¬ SameDatapath s t) :
    (∃ k, i = .init k) ∨ (∃ v, i = .fast v) ∨ (∃ v, i = .full v) ∨ i = .final := by
  obtain ⟨-, he⟩ | ⟨k, hi, -, he⟩ | ⟨k, hi, -, he⟩ | ⟨v, hi, -, he⟩ | ⟨-, -, he⟩ | ⟨v, hi, -, he⟩ | ⟨hi, -, -, he⟩
    | ⟨e, -, he⟩ := exec_cases i s <;> obtain rfl := Host.Outcome.next.inj (he.symm.trans h)
  · exact absurd ⟨rfl, rfl, rfl, rfl, rfl⟩ hne
  · exact .inl ⟨k, hi⟩
  · exact .inl ⟨k, hi⟩
  · exact .inr (.inl ⟨v, hi⟩)
  · exact absurd ⟨rfl, rfl, rfl, rfl, rfl⟩ hne
  · exact .inr (.inr (.inl ⟨v, hi⟩))
  · exact .inr (.inr (.inr hi))
  · exact absurd ⟨rfl, rfl, rfl, rfl, rfl⟩ hne

/-- A command that changes `DIGEST` is an `INIT` or a `FINAL`. -/
theorem exec_digest {i : Instr} {s t : State} (h : exec i s = .next t) (hne : t.digest ≠ s.digest) :
    (∃ k, i = .init k) ∨ i = .final := by
  obtain ⟨-, he⟩ | ⟨k, hi, -, he⟩ | ⟨k, hi, -, he⟩ | ⟨v, -, -, he⟩ | ⟨-, -, he⟩ | ⟨v, -, -, he⟩ | ⟨hi, -, -, he⟩
    | ⟨e, -, he⟩ := exec_cases i s <;> obtain rfl := Host.Outcome.next.inj (he.symm.trans h)
  · exact absurd rfl hne
  · exact .inl ⟨k, hi⟩
  · exact .inl ⟨k, hi⟩
  · exact absurd rfl hne
  · exact absurd rfl hne
  · exact absurd rfl hne
  · exact .inr hi
  · exact absurd rfl hne

/-- Settles O27: outside reset the step completed a command, and of the commands four change the datapath. -/
theorem datapathChangesByCommandsOnly : Obligations.DatapathChangesByCommandsOnly := by
  intro s t h hne
  obtain hsame | ⟨es, hreset, -⟩ | ⟨i, es, hb, hd, he⟩ := step_context_cases h
  · exact absurd hsame.datapath hne
  · exact .inl ⟨es, hreset⟩
  · refine .inr ⟨hb, exec_busy he, ?_⟩
    simpa [hd] using exec_datapath (s := (s.setEvents es).clearBusy) he hne

/-- Settles O28: outside reset the step completed a command, and of the commands two change `DIGEST`. -/
theorem digestChangesAtInitAndFinalOnly : Obligations.DigestChangesAtInitAndFinalOnly := by
  intro s t h hne
  obtain hsame | ⟨es, hreset, -⟩ | ⟨i, es, hb, hd, he⟩ := step_context_cases h
  · exact absurd hsame.digest hne
  · exact .inl ⟨es, hreset⟩
  · refine .inr ⟨hb, exec_busy he, ?_⟩
    simpa [hd] using exec_digest (s := (s.setEvents es).clearBusy) he hne

end Sys2Proof.Machine
end

section
/-! SUPPORT. Where each register of the window stands and what it reads as (10 section 3), and the steps that accept and
complete a command (10 R32); and the statements that follow. -/

namespace Sys2Proof.Machine

/-! ### The completion step -/

@[simp] theorem State.setEvents_self (s : State) : s.setEvents s.events = s := rfl

/-- However the completion comes about, the step is `completeCommand` with the events that are left. -/
theorem State.Completes.step_eq {s : State} {es : List Event} (h : s.Completes es) :
    step s = completeCommand (s.setEvents es) := by
  obtain ⟨hb, he | ⟨rfl, he | ⟨fs, he⟩ | ⟨a, fs, he, hheld⟩⟩⟩ := h
  · simp [step, schedule, he, hb]
  all_goals rw [State.setEvents_self]
  · simp [step, schedule, he, hb]
  · simp [step, schedule, he, hb]
  · simp [step, schedule, he, hb, hheld]

/-- A legal word in flight runs, with `BUSY` clear, in its completion step. -/
theorem State.Completes.step_eq_exec {s : State} {es : List Event} {i : Instr} (h : s.Completes es)
    (hd : decode s.pend = .ok i) : step s = exec i { s with busy := false, events := es } := by
  rw [h.step_eq, completeCommand, State.setEvents_pend, hd]
  rfl

/-- Settles O34: the four ways in which the completion comes about. -/
theorem stepRunsDecodedCommand : Obligations.StepRunsDecodedCommand := by
  intro s i hb hd
  have hold (hs : s.Completes s.events) : step s = exec i { s with busy := false } := hs.step_eq_exec hd
  refine ⟨fun es he => ?_, fun es a he hheld => hold ?_, fun es he => hold ?_, fun he => hold ?_⟩
  · exact State.Completes.step_eq_exec ⟨hb, .inl he⟩ hd
  · exact ⟨hb, .inr ⟨rfl, .inr (.inr ⟨a, es, he, hheld⟩)⟩⟩
  · exact ⟨hb, .inr ⟨rfl, .inr (.inl ⟨es, he⟩)⟩⟩
  · exact ⟨hb, .inr ⟨rfl, .inl he⟩⟩

/-- Settles O35: `withFetchWord` puts the word in flight with its completion as the next event. -/
theorem fetchedWordRunsNext : Obligations.FetchedWordRunsNext := by
  intro s w i hw hd
  rw [State.withFetchWord_eq, Nat.mod_eq_of_lt hw]
  exact State.Completes.step_eq_exec (s := s.inFlight _) (es := s.events) ⟨rfl, .inl rfl⟩ hd

/-! ### Host accesses to the window (20 R61 to R63) -/

/-- The block decodes the offset of an address in its window, wherever `BASE` puts it. -/
@[simp] theorem windowOffset_hostAddress (off : BitVec 7) : windowOffset (hostAddress off) = off := by
  apply BitVec.eq_of_toNat_eq
  rw [windowOffset, hostAddress, Config.base, BitVec.toNat_ofNat, Nat.mul_add_mod, Nat.mod_eq_of_lt off.isLt]

/-- A 32-bit access at an offset that is a multiple of 4 is well formed. -/
theorem Access.wellFormed_hostAddress {off : BitVec 7} (h : off.toNat % 4 = 0) (op : AccessOp) :
    (Access.mk (hostAddress off) .word op).wellFormed = true := by
  have : off.extractLsb' 0 2 = 0#2 := BitVec.eq_of_toNat_eq (by simpa using h)
  simp [Access.wellFormed, this]

/-- With `BUSY = 0` an aligned write of a register takes effect at once and is answered OKAY. -/
theorem step_registerWrite {s : State} {off : BitVec 7} {v : Reg} {es : List Event} (hb : s.busy = false)
    (ho : off.toNat % 4 = 0) (he : s.events = registerWrite off v :: es) :
    step s = .next (((s.setEvents es).regWrite v (registerAt off)).reply ⟨.okay, none⟩) := by
  simp [step, schedule, he, hb, registerWrite, serve, Access.wellFormed_hostAddress ho]

/-- Settles O36: `CMD` stands at `0x08`, and writing it is `State.accept`. -/
theorem commandWriteAccepted : Obligations.CommandWriteAccepted := by
  intro s w es hb he
  exact ⟨((s.setEvents es).accept w).reply ⟨.okay, none⟩, step_registerWrite hb (by decide) he, rfl, rfl, rfl, rfl,
    ⟨rfl, rfl, rfl, rfl, rfl⟩, rfl, rfl, rfl, rfl, rfl, rfl, rfl, rfl, rfl⟩

/-! ### Reset values (10 R49) -/

/-- Settles O33: `PHASE` is `IDLE`, the table has no bytes, and no earlier one stood at the port. -/
theorem resetMeetsInvariants : Obligations.ResetMeetsInvariants := by
  have hpast : ∀ m ∈ State.reset.past, m.wf = true := fun m hm => absurd hm List.not_mem_nil
  exact ⟨State.reset_phaseInv, ⟨State.reset_table_wf, hpast⟩, fun _ => rfl⟩

/-- Settles O40: the values that `State.reset` writes out. -/
theorem resetValues : Obligations.ResetValues := by
  refine ⟨fun i => ?_, rfl, rfl, rfl, rfl, rfl, rfl, rfl, rfl, fun j => ?_, rfl, rfl, rfl, rfl, by decide, rfl, by decide⟩
  · exact Vector.getElem_replicate _
  · exact Vector.getElem_replicate _

/-! ### The registers of the window (10 R40 to R48) -/

/-- Settles O42: a field of a read is found by dropping the fields of the concatenation below it and above it. -/
theorem statusRegister : Obligations.StatusRegister := by
  refine ⟨rfl, by decide, fun s w => ⟨?_, rfl⟩⟩
  simp (disch := decide) only [State.regRead, statusWord, BitVec.getLsbD_append, if_pos, if_neg,
    BitVec.extractLsb'_append_eq_of_le, BitVec.extractLsb'_append_eq_of_add_le]
  simp

/-- `DBG_HI` and `DBG_LO` make up the selected word. -/
theorem State.dbgHi_append_dbgLo (s : State) :
    (s.regRead .dbgHi ++ s.regRead .dbgLo : BitVec 64) = s.debugWord :=
  BitVec.extractLsb'_append_extractLsb'

/-- What `DBG_SEL` reads as after a write. -/
theorem State.regRead_setDbgSel (s : State) (w : Reg) : (s.setDbgSel w).regRead .dbgSel = w &&& 0x3F#32 := by
  apply BitVec.eq_of_toNat_eq
  have : w.toNat &&& 63 = w.toNat % 2 ^ 6 := Nat.and_two_pow_sub_one_eq_mod _ 6
  simp [State.regRead, this]
  omega

/-- Settles O43: the two halves make up `State.debugWord`, whose choice is that of the statement. -/
theorem debugWindow : Obligations.DebugWindow := by
  refine ⟨rfl, rfl, rfl, rfl, fun s => ⟨?_, s.regRead_setDbgSel⟩⟩
  rw [s.dbgHi_append_dbgLo, State.debugWord]
  simp only [Nat.lt_succ_iff]

/-- Bits `8j+7 : 8j` of `DIGESTn` hold digest byte `4n+j`. -/
theorem State.digestWord_byte (s : State) (n : Fin 8) (j : Fin 4) :
    (s.digestWord n).extractLsb' (8 * j.val) 8 = s.digest[4 * n.val + j.val] := by
  fin_cases j <;>
    simp (disch := decide) only [State.digestWord, BitVec.extractLsb'_append_eq_of_le,
      BitVec.extractLsb'_append_eq_of_add_le] <;>
    simp

/-- Settles O44: the bytes of `State.digestWord`; offsets and reset values are eight closed facts each. -/
theorem digestRegisterBytes : Obligations.DigestRegisterBytes := by
  intro s n j
  have hoffset : ∀ n : Fin 8, registerAt (BitVec.ofNat 7 (0x20 + 4 * n.val)) = .digest n := by decide
  have hreset : ∀ n : Fin 8, State.reset.regRead (.digest n) = 0 := by decide
  exact ⟨hoffset n, s.digestWord_byte n j, hreset n⟩

/-- Every offset from `0x40` on is reserved. -/
theorem registerAt_reserved {off : BitVec 7} (h : 0x40 ≤ off.toNat) : registerAt off = .reserved := by
  revert off
  decide

/-- Settles O45: the named offsets by computation, those from `0x40` on by `registerAt_reserved`. -/
theorem readOnlyRegisters : Obligations.ReadOnlyRegisters := by
  refine ⟨rfl, rfl, fun s w => ⟨rfl, rfl, rfl, rfl, rfl, rfl, rfl, fun off h => ?_⟩⟩
  rw [registerAt_reserved h]
  exact ⟨rfl, rfl⟩

/-- Settles O51: the low five bits of a number are the number modulo 32. -/
theorem slotIsByteIndexMod32 : Obligations.SlotIsByteIndexMod32 := by
  intro n
  change BitVec.toNat _ = _
  rw [BitVec.extractLsb'_toNat, BitVec.toNat_ofNat, Nat.shiftRight_zero]
  omega

end Sys2Proof.Machine
end

section
/-! SUPPORT. The table memory (20 R66 to R69): what its bytes are after a write and a binding, and that they determine the
canonical form; what the commands and the steps do to the tables the state holds; and the statements that follow. -/

namespace Sys2Proof.Machine

/-! ### What the commands and the steps do to the tables -/

/-- `s` and `t` agree on everything that no command writes: the tables, the debug selector, the command in flight and the
host's side (20 R67, 10 R34). -/
structure SameTableAndHost (s t : State) : Prop where
  table : t.table = s.table
  past : t.past = s.past
  dbgSel : t.dbgSel = s.dbgSel
  busy : t.busy = s.busy
  pend : t.pend = s.pend
  readsAtInit : t.readsAtInit = s.readsAtInit
  events : t.events = s.events
  replies : t.replies = s.replies

/-- Every command answers a next state that agrees on what no command writes. -/
theorem exec_sameTableAndHost (i : Instr) (s : State) : ∃ t, exec i s = .next t ∧ SameTableAndHost s t := by
  obtain ⟨-, he⟩ | ⟨k, -, -, he⟩ | ⟨k, -, -, he⟩ | ⟨v, -, -, he⟩ | ⟨-, -, he⟩ | ⟨v, -, -, he⟩ | ⟨-, -, -, he⟩
    | ⟨e, -, he⟩ := exec_cases i s <;> refine ⟨_, he, ?_⟩
  pick_goal 7
  · obtain ⟨-, -, -, -, hbusy, hpend, -, hsel, htable, hpast, hinit, hevents, hreplies⟩ :=
      finalizeDown_same Config.params 32 (Nat.le_refl 32) s
    exact ⟨htable, hpast, hsel, hbusy, hpend, hinit, hevents, hreplies⟩
  all_goals exact ⟨rfl, rfl, rfl, rfl, rfl, rfl, rfl, rfl⟩

/-- Completing the command in flight changes no table. -/
theorem completeCommand_tables {s t : State} (h : completeCommand s = .next t) :
    t.table = s.table ∧ t.past = s.past := by
  obtain ⟨i, -, he⟩ | ⟨r, -, he⟩ := completeCommand_cases s
  · obtain ⟨u, hu, hsame⟩ := exec_sameTableAndHost i s.clearBusy
    obtain rfl := Host.Outcome.next.inj ((he.trans hu).symm.trans h)
    exact ⟨hsame.table, hsame.past⟩
  · obtain rfl := Host.Outcome.next.inj (he.symm.trans h)
    exact ⟨rfl, rfl⟩

/-- Serving an access leaves the table at the port, and at most forgets the earlier ones. -/
theorem serve_tables (a : Access) (s : State) : (serve a s).table = s.table ∧ (serve a s).past ⊆ s.past := by
  obtain ⟨r, h⟩ | ⟨v, r, -, -, -, h⟩ | ⟨v, r, -, -, -, h⟩ | ⟨v, r, -, h⟩ := serve_cases a s <;> rw [h]
  · exact ⟨rfl, List.Subset.refl _⟩
  · exact ⟨rfl, List.Subset.refl _⟩
  · refine ⟨rfl, ?_⟩
    rw [State.reply_past, State.accept_past]
    split
    · exact List.nil_subset _
    · exact List.Subset.refl _
  · exact ⟨rfl, List.Subset.refl _⟩

/-- Binding a table keeps at most the old one among those that may still answer. -/
theorem State.bindTable_past_subset (s : State) (m : Memory) : (s.bindTable m).past ⊆ s.table :: s.past := by
  rw [State.bindTable_past]
  split
  · exact List.subset_cons_self _ _
  · exact List.Subset.refl _

/-- What a step does to the tables: an earlier table of the next state stood in the old one, and the table at the port stays,
is bound by the event taken, or has one byte written by it (20 R67, R69). -/
theorem step_tables {s t : State} (h : step s = .next t) :
    t.past ⊆ s.table :: s.past
      ∧ (t.table = s.table
        ∨ (∃ size cells es, s.events = .bindTable size cells :: es ∧ t.table = Memory.ofCells size cells)
        ∨ ∃ i v es, s.events = .writeTable i v :: es ∧ t.table = s.table.write i v) := by
  have hkept : s.past ⊆ s.table :: s.past := List.subset_cons_self _ _
  obtain ⟨es, -, hc, -⟩ | ⟨a, es, -, -, rfl⟩ | ⟨n, es, es', -, rfl⟩ | ⟨es, -, rfl, -⟩ | ⟨es, -, rfl⟩
    | ⟨size, cells, es, he, rfl⟩ | ⟨i, v, es, he, rfl⟩ := step_cases h
  · obtain ⟨htable, hpast⟩ := completeCommand_tables hc
    exact ⟨hpast ▸ hkept, .inl htable⟩
  · obtain ⟨htable, hpast⟩ := serve_tables a (s.setEvents es)
    exact ⟨List.Subset.trans hpast hkept, .inl htable⟩
  · exact ⟨hkept, .inl rfl⟩
  · exact ⟨hkept, .inl rfl⟩
  · exact ⟨hkept, .inl rfl⟩
  · exact ⟨State.bindTable_past_subset _ _, .inr (.inl ⟨size, cells, es, he, rfl⟩)⟩
  · exact ⟨List.Subset.refl _, .inr (.inr ⟨i, v, es, he, rfl⟩)⟩

/-- Settles O31: earlier tables stood in the old state, and a binding and a write give a canonical table. -/
theorem memoryCanonicalKept : Obligations.MemoryCanonicalKept := by
  intro s t ⟨hnow, hpast⟩ h
  obtain ⟨hsub, htable⟩ := step_tables h
  refine ⟨?_, fun m hm => ?_⟩
  · obtain ht | ⟨size, cells, -, -, ht⟩ | ⟨i, v, -, -, ht⟩ := htable <;> rw [ht]
    · exact hnow
    · exact Memory.ofCells_wf size cells
    · exact Memory.write_wf hnow i v
  · obtain rfl | hm := List.mem_cons.mp (hsub hm)
    · exact hnow
    · exact hpast m hm

/-- Settles O29: what no command writes, field by field. -/
theorem commandsLeaveTableAndHost : Obligations.CommandsLeaveTableAndHost := by
  intro i s
  obtain ⟨t, he, hsame⟩ := exec_sameTableAndHost i s
  exact ⟨t, he, fun a => by rw [hsame.table], hsame.table, hsame.past, hsame.dbgSel, hsame.busy, hsame.pend,
    hsame.readsAtInit, hsame.events, hsame.replies⟩

/-- Settles O54: a step that does not leave the table takes one of the two events. -/
theorem onlyHostChangesTable : Obligations.OnlyHostChangesTable := by
  intro s t h hne
  obtain ⟨-, ht | ⟨size, cells, es, he, -⟩ | ⟨i, v, es, he, -⟩⟩ := step_tables h
  · exact absurd ht hne
  · exact ⟨es, .inr ⟨size, cells, he⟩⟩
  · exact ⟨es, .inl ⟨i, v, he⟩⟩

/-! ### The bytes after a write and a binding (20 R66, R69) -/

/-- What every index reads as after a write. -/
theorem Memory.read?_write {m : Memory} (h : m.wf = true) (i : Nat) (v : Byte) (a : Nat) :
    (m.write i v).read? a = if a = i ∧ i < m.size then some v else m.read? a := by
  by_cases ha : a = i
  · subst a
    by_cases hi : i < m.size
    · rw [if_pos ⟨rfl, hi⟩, Memory.read?_write_same h hi]
    · rw [if_neg fun hc => hi hc.2, Memory.write, if_neg hi]
  · rw [if_neg fun hc => ha hc.1, Memory.read?_write_other m v ha]

/-- Settles O55: the step is `State.writeTable`, and its table is `Memory.write`. -/
theorem tableWriteRaces : Obligations.TableWriteRaces := by
  intro s i v es he hwf
  have hstep : step s = .next ((s.setEvents es).writeTable i v) := by simp [step, schedule, he]
  exact ⟨_, hstep, Memory.read?_write hwf i v, rfl⟩

/-- After a list of writes an index of the table reads as the last byte written there, or else as before. -/
theorem Memory.read?_foldl_write {m : Memory} (h : m.wf = true) (cells : List Host.Cell) {i : Nat} (hi : i < m.size) :
    (cells.foldl (fun m c => m.write c.1 c.2) m).read? i =
      ((cells.reverse.find? (fun c => c.1 == i)).map (fun c => c.2)).or (m.read? i) := by
  induction cells generalizing m with
  | nil => rfl
  | cons c cs ih =>
    rw [List.foldl_cons, ih (Memory.write_wf h c.1 c.2) (by simpa using hi), Memory.read?_write h, List.reverse_cons,
      List.find?_append, Option.map_or, Option.or_assoc]
    by_cases hc : c.1 = i
    · simp [hc, hi]
    · simp [hc, Ne.symm hc]

/-- A bound table has its size, up to what the port's index reaches. -/
@[simp] theorem Memory.ofCells_size (size : Nat) (cells : List Host.Cell) :
    (Memory.ofCells size cells).size = min size (2 ^ 32) := by
  have hwrites : ∀ m : Memory, (cells.foldl (fun m c => m.write c.1 c.2) m).size = m.size := by
    induction cells with
    | nil => exact fun _ => rfl
    | cons c cs ih => exact fun m => (ih _).trans (Memory.write_size m c.1 c.2)
  exact hwrites _

/-- Settles O57: binding is a list of writes to a table of 0 bytes. -/
theorem boundTableHoldsItsBytes : Obligations.BoundTableHoldsItsBytes := by
  intro size cells i hsize
  refine ⟨fun hi => ?_, fun hi => ?_⟩
  · have hwf : (Memory.mk (min size (2 ^ 32)) []).wf = true := Memory.ofCells_wf size []
    have hlt : i < min size (2 ^ 32) := by omega
    have hzero : (Memory.mk (min size (2 ^ 32)) []).read? i = some 0 := if_pos hlt
    rw [Memory.ofCells, Memory.read?_foldl_write hwf cells hlt, hzero]
    cases (cells.reverse.find? (fun c => c.1 == i)).map (fun c => c.2) <;> rfl
  · rw [Memory.read?, Memory.ofCells_size, if_neg (by omega)]

/-! ### The bytes determine the canonical form -/

/-- Canonical form of a list of cells, by its first cell. -/
theorem cellsWf_cons {size lo : Nat} {c : Host.Cell} {cs : List Host.Cell} :
    cellsWf size lo (c :: cs) = true ↔
      lo ≤ c.1 ∧ c.1 < size ∧ c.2 ≠ Memory.unlisted ∧ cellsWf size (c.1 + 1) cs = true := by
  simp [cellsWf, and_assoc]

/-- The byte a list gives to the index of its first cell. -/
@[simp] theorem cellAt_cons_self (c : Host.Cell) (cs : List Host.Cell) : cellAt (c :: cs) c.1 = c.2 := if_pos rfl

/-- A canonical list begins no later than an index to which it gives a listed byte. -/
theorem le_of_cellAt_ne_unlisted {size lo i : Nat} {cs : List Host.Cell} (h : cellsWf size lo cs = true)
    (hi : cellAt cs i ≠ Memory.unlisted) : lo ≤ i :=
  Nat.le_of_not_lt fun hlt => hi (cellAt_of_lt h hlt)

/-- Canonical lists of cells that give every index below the size the same byte are equal. -/
theorem cells_ext {size lo lo' : Nat} {cs cs' : List Host.Cell} (h : cellsWf size lo cs = true)
    (h' : cellsWf size lo' cs' = true) (heq : ∀ i < size, cellAt cs i = cellAt cs' i) : cs = cs' := by
  induction cs generalizing lo lo' cs' with
  | nil =>
    cases cs' with
    | nil => rfl
    | cons d ds =>
      obtain ⟨-, hd, hne, -⟩ := cellsWf_cons.mp h'
      exact absurd ((cellAt_cons_self d ds).symm.trans (heq _ hd).symm) hne
  | cons c cs ih =>
    obtain ⟨-, hc, hcne, hcs⟩ := cellsWf_cons.mp h
    cases cs' with
    | nil => exact absurd ((cellAt_cons_self c cs).symm.trans (heq _ hc)) hcne
    | cons d ds =>
      obtain ⟨-, hd, hdne, hds⟩ := cellsWf_cons.mp h'
      have hle : d.1 ≤ c.1 := le_of_cellAt_ne_unlisted (cellsWf_cons.mpr ⟨le_rfl, hd, hdne, hds⟩) (heq _ hc ▸ by simpa)
      have hge : c.1 ≤ d.1 := le_of_cellAt_ne_unlisted (cellsWf_cons.mpr ⟨le_rfl, hc, hcne, hcs⟩) (heq _ hd ▸ by simpa)
      have hidx : c.1 = d.1 := le_antisymm hge hle
      have hbyte : c.2 = d.2 := by simpa [hidx] using (cellAt_cons_self c cs).symm.trans (heq _ hc)
      have htail : cs = ds := by
        refine ih hcs hds fun i hi => ?_
        by_cases hic : i < c.1 + 1
        · rw [cellAt_of_lt hcs hic, cellAt_of_lt hds (hidx ▸ hic)]
        · have := heq i hi
          rwa [cellAt, cellAt, if_neg (by omega), if_neg (by omega)] at this
      rw [Prod.ext hidx hbyte, htail]

/-- Settles O59: same size and same bytes make the two lists of cells equal. -/
theorem canonicalMemoryExt : Obligations.CanonicalMemoryExt := by
  intro m m' h h' hsize hread
  obtain ⟨size, cells⟩ := m
  obtain ⟨size', cells'⟩ := m'
  obtain rfl : size' = size := hsize
  simp only [Memory.wf, Bool.and_eq_true] at h h'
  obtain ⟨-, hcanon⟩ := h
  obtain ⟨-, hcanon'⟩ := h'
  have hcells : cells' = cells :=
    cells_ext hcanon' hcanon fun i hi => by simpa [Memory.read?, hi] using hread i
  rw [hcells]

/-! ### What a lookup returns (00 R12, 20 R67 to R69) -/

/-- A table that has the index answers a read of it, whatever its number, with its byte there. -/
theorem Memory.read?_eq_some_answer {m : Memory} {i : BitVec 32} (h : i.toNat < m.size) (n : Nat) :
    m.read? i.toNat = some (m.answer n i) := by
  have hread : m.read? i.toNat = some (cellAt m.cells i.toNat) := if_pos h
  rw [hread, Memory.answer_of_read hread]

/-- `MASK` is `2^K - 1`. -/
theorem maskOf_toNat {k : BitVec 6} (h : k.toNat ≤ 32) : (maskOf k).toNat = 2 ^ k.toNat - 1 := by
  have hshift : (1#64 <<< k.toNat).toNat = 2 ^ k.toNat := by
    rw [← BitVec.twoPow_eq, BitVec.toNat_twoPow_of_lt (by omega)]
  have hone : 1#64 ≤ 1#64 <<< k.toNat := by
    rw [BitVec.le_def, hshift]
    exact Nat.one_le_two_pow
  rw [maskOf, BitVec.toNat_sub_of_le hone, hshift]
  rfl

/-- The index of a lookup is the operand modulo `2^K`. -/
theorem tableIndex_toNat {k : BitVec 6} (h : k.toNat ≤ 32) (x : Word) :
    (tableIndex k x).toNat = x.toNat % 2 ^ k.toNat := by
  have hfits : x.toNat % 2 ^ k.toNat < 2 ^ 32 :=
    (Nat.mod_lt _ (by positivity)).trans_le (Nat.pow_le_pow_right (by decide) h)
  rw [tableIndex, BitVec.toNat_setWidth, BitVec.toNat_and, maskOf_toNat h, Nat.and_two_pow_sub_one_eq_mod,
    Nat.mod_eq_of_lt hfits]

/-- Settles O52: the index is below the size, and only the table at the port answers. -/
theorem stableLookupReadsTheTable : Obligations.StableLookupReadsTheTable := by
  intro s n x ⟨hpast, hsize⟩ hlegal
  have hidx := tableIndex_toNat ((mapBitsLegal_iff _).mp hlegal).2 x
  have hlt : (tableIndex s.mapBits x).toNat < s.table.size := by
    rw [hidx]
    exact (Nat.mod_lt _ (by positivity)).trans_le hsize
  rw [← hidx, State.lookup, State.tableRead, hpast, versionFor_nil]
  exact Memory.read?_eq_some_answer hlt n

/-- Settles O53: the table that answers is one of those that stood at the port. -/
theorem racedLookupIsOldOrNew : Obligations.RacedLookupIsOldOrNew := by
  intro s n i hsize
  have hmem := versionFor_mem s.table s.past n
  exact ⟨_, hmem, Memory.read?_eq_some_answer (hsize _ hmem) n⟩

end Sys2Proof.Machine
end

section
/-! SUPPORT. The host's accesses to the register window when no command is in flight (20 R61 to R64, R69); and the statements
that follow. -/

namespace Sys2Proof.Machine

/-- With `BUSY = 0` an access is served at once. -/
theorem step_access {s : State} {a : Access} {es : List Event} (hb : s.busy = false) (he : s.events = .access a :: es) :
    step s = .next (serve a (s.setEvents es)) := by
  simp [step, schedule, he, hb]

/-- What a register reads as does not depend on the events to come. -/
@[simp] theorem State.regRead_setEvents (s : State) (es : List Event) (r : Register) :
    (s.setEvents es).regRead r = s.regRead r := by
  cases r <;> rfl

/-- `STATUS`, `CMD` and `DBG_SEL` stand at one aligned offset each. -/
theorem registerAt_of_other_offset {off : BitVec 7} (ho : off.toNat % 4 = 0) (hstatus : off ≠ 0x04) (hcmd : off ≠ 0x08)
    (hsel : off ≠ 0x14) : registerAt off ≠ .status ∧ registerAt off ≠ .cmd ∧ registerAt off ≠ .dbgSel := by
  revert off
  decide

/-- A register other than `STATUS`, `CMD` and `DBG_SEL` ignores a write. -/
theorem State.regWrite_ignored (s : State) (v : Reg) {r : Register} (h : r ≠ .status ∧ r ≠ .cmd ∧ r ≠ .dbgSel) :
    s.regWrite v r = s := by
  obtain ⟨hstatus, hcmd, hsel⟩ := h
  cases r with
  | status => exact absurd rfl hstatus
  | cmd => exact absurd rfl hcmd
  | dbgSel => exact absurd rfl hsel
  | _ => rfl

/-- Settles O46: the three registers that take a write by their offsets, any other offset by `State.regWrite_ignored`. -/
theorem hostRegisterWrites : Obligations.HostRegisterWrites := by
  intro s off v es hb ho he
  have hstep := step_registerWrite hb ho he
  refine ⟨?_, ?_, ?_, fun hstatus hcmd hsel => ?_⟩
  · rintro rfl
    exact ⟨_, hstep, rfl, rfl, rfl⟩
  · rintro rfl
    exact hstep
  · rintro rfl
    exact hstep
  · rw [hstep, State.regWrite_ignored _ v (registerAt_of_other_offset ho hstatus hcmd hsel)]
    rfl

/-- Settles O47: serving an aligned read only adds the reply. -/
theorem readsHaveNoSideEffect : Obligations.ReadsHaveNoSideEffect := by
  intro s off es hb ho he
  rw [step_access hb he, serve]
  simp only [Access.wellFormed_hostAddress ho, windowOffset_hostAddress, State.regRead_setEvents, if_true]
  rfl

/-- An access of another width, or at an address that is no multiple of 4, is malformed (20 R64). -/
theorem Access.wellFormed_eq_false {a : Access} (h : a.width ≠ .word ∨ a.addr % 4 ≠ 0) : a.wellFormed = false := by
  have hlow : ((windowOffset a.addr).extractLsb' 0 2).toNat = a.addr % 4 := by
    rw [BitVec.extractLsb'_toNat, windowOffset, BitVec.toNat_ofNat, Nat.shiftRight_zero]
    omega
  rw [Access.wellFormed, Bool.and_eq_false_iff]
  refine h.imp beq_eq_false_iff_ne.mpr fun haddr => beq_eq_false_iff_ne.mpr fun hzero => haddr ?_
  rw [← hlow, hzero]
  rfl

/-- Settles O48: serving a malformed access only adds the ERROR reply. -/
theorem malformedAccessErrors : Obligations.MalformedAccessErrors := by
  intro s a es hb he hbad
  have hwf := Access.wellFormed_eq_false hbad
  refine ⟨fun hop => ?_, fun v hop => ?_⟩
  all_goals
    rw [step_access hb he, serve, hop]
    simp only [hwf, Bool.false_eq_true, if_false]
    rfl

/-- Settles O49: `BASE` is a multiple of `0x80` and so adds nothing to address bits 6:0. -/
theorem windowDecodesLowBits : Obligations.WindowDecodesLowBits := windowOffset_hostAddress

/-- The word of `INIT K` is an `INIT` word, whatever its `K`. -/
theorem isInitWord_encode_init (k : BitVec 6) : isInitWord (encode (.init k)) = true := by
  revert k
  decide

/-- Settles O58: accepting an `INIT` word leaves no earlier table that could answer. -/
theorem acceptedInitStartsTableInterval : Obligations.AcceptedInitStartsTableInterval := by
  intro s k es hb he
  have hpast : ((s.setEvents es).accept (encode (.init k))).past = [] := by
    rw [State.accept_past, isInitWord_encode_init, if_pos rfl]
  refine ⟨_, step_registerWrite hb (by decide) he, rfl, fun n i => ?_⟩
  change (versionFor s.table ((s.setEvents es).accept _).past n).answer n i = _
  rw [hpast, versionFor_nil]

end Sys2Proof.Machine
end

section
/-! SUPPORT. The command words as numbers (30 R90 to R98): what a word of each opcode decodes to, the value of each
command's word, and that `decode` and `encode` are inverse; the opcode map, the illegal words and the assembler; and the
statements that follow. -/

namespace Sys2Proof

/-! ### The decoder, one equation per opcode (30 R92, R95) -/

section
variable {w : Reg}

/-- `OP` is the word divided by 2^28 (30 R91). -/
theorem opField_toNat (w : Reg) : (opField w).toNat = w.toNat / 2 ^ 28 := by
  rw [opField, BitVec.extractLsb'_toNat, Nat.shiftRight_eq_div_pow]
  omega

/-- A field of `DATA` from bit `n` up to bit 27 is 0 exactly when `DATA` divided by `2^n` is. -/
theorem dataFrom_eq_zero_iff (w : Reg) (n len : Nat) (h : n + len = 28) :
    w.extractLsb' n len = 0 ↔ w.toNat % 2 ^ 28 / 2 ^ n = 0 := by
  rw [← BitVec.toNat_inj, BitVec.extractLsb'_toNat, Nat.shiftRight_eq_div_pow, ← h, Nat.pow_add,
    Nat.mod_mul_right_div_self]
  rfl

theorem decode_of_op_nop (hop : w.toNat / 2 ^ 28 = 0) :
    decode w = if w.toNat % 2 ^ 28 = 0 then .ok .nop else .error .mustBeZero := by
  simp only [decode, opField_toNat, hop, dataFrom_eq_zero_iff, pow_zero, Nat.div_one]

theorem decode_of_op_init (hop : w.toNat / 2 ^ 28 = 1) :
    decode w = if w.toNat % 2 ^ 28 / 2 ^ 6 = 0 then .ok (.init (w.extractLsb' 0 6)) else .error .mustBeZero := by
  simp only [decode, opField_toNat, hop, dataFrom_eq_zero_iff]

theorem decode_of_op_fast (hop : w.toNat / 2 ^ 28 = 2) :
    decode w = if w.toNat % 2 ^ 28 / 2 ^ 8 = 0 then .ok (.fast (w.extractLsb' 0 8)) else .error .mustBeZero := by
  simp only [decode, opField_toNat, hop, dataFrom_eq_zero_iff]

theorem decode_of_op_pass2 (hop : w.toNat / 2 ^ 28 = 3) :
    decode w = if w.toNat % 2 ^ 28 = 0 then .ok .pass2 else .error .mustBeZero := by
  simp only [decode, opField_toNat, hop, dataFrom_eq_zero_iff, pow_zero, Nat.div_one]

theorem decode_of_op_full (hop : w.toNat / 2 ^ 28 = 4) :
    decode w = if w.toNat % 2 ^ 28 / 2 ^ 8 = 0 then .ok (.full (w.extractLsb' 0 8)) else .error .mustBeZero := by
  simp only [decode, opField_toNat, hop, dataFrom_eq_zero_iff]

theorem decode_of_op_final (hop : w.toNat / 2 ^ 28 = 5) :
    decode w = if w.toNat % 2 ^ 28 = 0 then .ok .final else .error .mustBeZero := by
  simp only [decode, opField_toNat, hop, dataFrom_eq_zero_iff, pow_zero, Nat.div_one]

theorem decode_of_op_reserved (hop : 6 ≤ w.toNat / 2 ^ 28) : decode w = .error .reservedOpcode := by
  have hop' : 6 ≤ (opField w).toNat := by rwa [opField_toNat]
  unfold decode
  split
  case h_7 => rfl
  all_goals omega

end

/-! ### The value of a command's word (30 R92, R94) -/

/-- Appending a field shifts what stands above it. -/
theorem toNat_append_eq_add {m n : Nat} (x : BitVec m) (y : BitVec n) : (x ++ y).toNat = x.toNat * 2 ^ n + y.toNat := by
  rw [BitVec.toNat_append, ← Nat.shiftLeft_add_eq_or_of_lt y.isLt, Nat.shiftLeft_eq]

theorem encode_init_toNat (k : BitVec 6) : (encode (.init k)).toNat = 0x10000000 + k.toNat :=
  toNat_append_eq_add _ _

theorem encode_fast_toNat (v : Byte) : (encode (.fast v)).toNat = 0x20000000 + v.toNat :=
  toNat_append_eq_add _ _

theorem encode_full_toNat (v : Byte) : (encode (.full v)).toNat = 0x40000000 + v.toNat :=
  toNat_append_eq_add _ _

/-! ### `decode` and `encode` are inverse -/

/-- The low field of a word, found by its number. -/
theorem lowField_eq {w : Reg} {n : Nat} {x : BitVec n} (h : w.toNat % 2 ^ n = x.toNat) : w.extractLsb' 0 n = x := by
  rwa [← BitVec.toNat_inj, BitVec.extractLsb'_toNat, Nat.shiftRight_zero]

/-- Settles O1: the word's number gives back `OP`, zeros, and the operand. -/
theorem decodeOfEncode : Obligations.DecodeOfEncode := by
  intro i
  cases i with
  | nop => rfl
  | init k =>
    have hw := encode_init_toNat k
    rw [decode_of_op_init (by omega), if_pos (by omega), lowField_eq (x := k) (by omega)]
  | fast v =>
    have hw := encode_fast_toNat v
    rw [decode_of_op_fast (by omega), if_pos (by omega), lowField_eq (x := v) (by omega)]
  | pass2 => rfl
  | full v =>
    have hw := encode_full_toNat v
    rw [decode_of_op_full (by omega), if_pos (by omega), lowField_eq (x := v) (by omega)]
  | final => rfl

section
variable {w : Reg}

/-- A word with the high bits of an `INIT` is the one of its low six bits. -/
theorem encode_init_lowField (h : w.toNat / 2 ^ 6 = 0x10000000 / 2 ^ 6) : encode (.init (w.extractLsb' 0 6)) = w := by
  have hk : (w.extractLsb' 0 6).toNat = w.toNat % 2 ^ 6 := BitVec.extractLsb'_toNat 0 6 w
  apply BitVec.eq_of_toNat_eq
  rw [encode_init_toNat, hk]
  omega

/-- A word with the high bits of a `FAST` is the one of its low byte. -/
theorem encode_fast_lowField (h : w.toNat / 2 ^ 8 = 0x20000000 / 2 ^ 8) : encode (.fast (w.extractLsb' 0 8)) = w := by
  have hv : (w.extractLsb' 0 8).toNat = w.toNat % 2 ^ 8 := BitVec.extractLsb'_toNat 0 8 w
  apply BitVec.eq_of_toNat_eq
  rw [encode_fast_toNat, hv]
  omega

/-- A word with the high bits of a `FULL` is the one of its low byte. -/
theorem encode_full_lowField (h : w.toNat / 2 ^ 8 = 0x40000000 / 2 ^ 8) : encode (.full (w.extractLsb' 0 8)) = w := by
  have hv : (w.extractLsb' 0 8).toNat = w.toNat % 2 ^ 8 := BitVec.extractLsb'_toNat 0 8 w
  apply BitVec.eq_of_toNat_eq
  rw [encode_full_toNat, hv]
  omega

end

/-- A check that passes or errs passes exactly when its condition holds, with its own answer. -/
theorem ite_ok_error_eq_ok_iff {ε α : Type} {c : Prop} [Decidable c] {a b : α} {e : ε} :
    (if c then Except.ok a else Except.error e) = Except.ok b ↔ c ∧ a = b := by
  by_cases h : c <;> simp [h]

/-- Settles O2: for each `OP`, the must-be-zero bits that the decoder checks leave only the operand free. -/
theorem encodeOfDecode : Obligations.EncodeOfDecode := by
  intro w i h
  obtain hop | hop | hop | hop | hop | hop | hop : w.toNat / 2 ^ 28 = 0 ∨ w.toNat / 2 ^ 28 = 1 ∨ w.toNat / 2 ^ 28 = 2
      ∨ w.toNat / 2 ^ 28 = 3 ∨ w.toNat / 2 ^ 28 = 4 ∨ w.toNat / 2 ^ 28 = 5 ∨ 6 ≤ w.toNat / 2 ^ 28 := by omega
  · rw [decode_of_op_nop hop, ite_ok_error_eq_ok_iff] at h
    obtain ⟨hz, rfl⟩ := h
    exact BitVec.eq_of_toNat_eq (show 0 = w.toNat by omega)
  · rw [decode_of_op_init hop, ite_ok_error_eq_ok_iff] at h
    obtain ⟨hz, rfl⟩ := h
    exact encode_init_lowField (by omega)
  · rw [decode_of_op_fast hop, ite_ok_error_eq_ok_iff] at h
    obtain ⟨hz, rfl⟩ := h
    exact encode_fast_lowField (by omega)
  · rw [decode_of_op_pass2 hop, ite_ok_error_eq_ok_iff] at h
    obtain ⟨hz, rfl⟩ := h
    exact BitVec.eq_of_toNat_eq (show 0x30000000 = w.toNat by omega)
  · rw [decode_of_op_full hop, ite_ok_error_eq_ok_iff] at h
    obtain ⟨hz, rfl⟩ := h
    exact encode_full_lowField (by omega)
  · rw [decode_of_op_final hop, ite_ok_error_eq_ok_iff] at h
    obtain ⟨hz, rfl⟩ := h
    exact BitVec.eq_of_toNat_eq (show 0x50000000 = w.toNat by omega)
  · rw [decode_of_op_reserved hop] at h
    contradiction

/-- A command has one word, and a legal word one command (30 R94 to R96). -/
theorem decode_eq_ok_iff {w : Reg} {i : Instr} : decode w = .ok i ↔ w = encode i :=
  ⟨fun h => (encodeOfDecode w i h).symm, fun h => h ▸ decodeOfEncode i⟩

/-! ### The opcode map (30 R94) -/

/-- A mask of ones from bit `n` up clears the bits below. -/
theorem and_highMask_toNat (w : Reg) (n : Nat) : (w &&& BitVec.allOnes 32 <<< n).toNat = w.toNat / 2 ^ n * 2 ^ n := by
  have hle : w.toNat / 2 ^ n * 2 ^ n ≤ w.toNat := Nat.div_mul_le_self _ _
  rw [← BitVec.shiftLeft_ushiftRight, BitVec.toNat_shiftLeft, BitVec.toNat_ushiftRight, Nat.shiftLeft_eq,
    Nat.shiftRight_eq_div_pow, Nat.mod_eq_of_lt (hle.trans_lt w.isLt)]

/-- A word with a match's bits from bit `n` up, as its number says it. -/
theorem div_of_and_highMask {w p : Reg} {n : Nat} (h : w &&& BitVec.allOnes 32 <<< n = p) :
    w.toNat / 2 ^ n = p.toNat / 2 ^ n := by
  rw [← h, and_highMask_toNat, Nat.mul_div_cancel _ (Nat.two_pow_pos n)]

/-- Every command's row stands in the opcode map and selects the command's word. -/
theorem encodeRow (i : Instr) : Laws.EncodeRow.Statement i := by
  cases i with
  | nop => exact Laws.EncodeRow.nop
  | init k => exact Laws.EncodeRow.init k
  | fast v => exact Laws.EncodeRow.fast v
  | pass2 => exact Laws.EncodeRow.pass2
  | full v => exact Laws.EncodeRow.full v
  | final => exact Laws.EncodeRow.final

/-- A word that a row of the map selects is the word of a command of that row. -/
theorem exists_encode_of_selects {w : Reg} {r : OpcodeRow} (hr : r ∈ opcodeMap) (h : w &&& r.mask = r.pattern) :
    ∃ i, w = encode i ∧ i.row = r := by
  simp only [opcodeMap, List.mem_cons, List.not_mem_nil, or_false] at hr
  obtain rfl | rfl | rfl | rfl | rfl | rfl := hr
  · exact ⟨.nop, BitVec.and_allOnes.symm.trans h, rfl⟩
  · exact ⟨.init _, (encode_init_lowField (div_of_and_highMask (n := 6) h)).symm, rfl⟩
  · exact ⟨.fast _, (encode_fast_lowField (div_of_and_highMask (n := 8) h)).symm, rfl⟩
  · exact ⟨.pass2, BitVec.and_allOnes.symm.trans h, rfl⟩
  · exact ⟨.full _, (encode_full_lowField (div_of_and_highMask (n := 8) h)).symm, rfl⟩
  · exact ⟨.final, BitVec.and_allOnes.symm.trans h, rfl⟩

/-- A row of the map selects the words of its own commands and no others. -/
theorem and_mask_eq_pattern_iff {w : Reg} {r : OpcodeRow} (hr : r ∈ opcodeMap) :
    w &&& r.mask = r.pattern ↔ ∃ i, decode w = .ok i ∧ i.row = r := by
  simp only [decode_eq_ok_iff]
  refine ⟨exists_encode_of_selects hr, ?_⟩
  rintro ⟨i, rfl, rfl⟩
  exact eq_of_beq (encodeRow i).2

/-- Settles O3: two rows that a word selects are the row of the one command it decodes to. -/
theorem opcodeMapSelects : Obligations.OpcodeMapSelects := by
  refine ⟨fun w r hr => and_mask_eq_pattern_iff hr, fun w i _ => (encodeRow i).1, fun w r r' hr hr' h h' => ?_⟩
  obtain ⟨i, hi, rfl⟩ := (and_mask_eq_pattern_iff hr).mp h
  obtain ⟨j, hj, rfl⟩ := (and_mask_eq_pattern_iff hr').mp h'
  rw [Except.ok.inj (hi.symm.trans hj)]

/-! ### Illegal words (30 R96) -/

/-- Settles O4: each opcode's own equation, with its check failing. -/
theorem illegalEncodingsRejected : Obligations.IllegalEncodingsRejected := by
  refine fun w => ⟨decode_of_op_reserved, fun hop hz => ?_, fun hop hz => ?_, fun hop hz => ?_⟩
  · simp only [List.mem_cons, List.not_mem_nil, or_false] at hop
    obtain hop | hop | hop := hop
    · rw [decode_of_op_nop hop, if_neg hz]
    · rw [decode_of_op_pass2 hop, if_neg hz]
    · rw [decode_of_op_final hop, if_neg hz]
  · rw [decode_of_op_init hop, if_neg hz]
  · simp only [List.mem_cons, List.not_mem_nil, or_false] at hop
    obtain hop | hop := hop
    · rw [decode_of_op_fast hop, if_neg hz]
    · rw [decode_of_op_full hop, if_neg hz]

/-- Settles O5: eight closed words. -/
theorem decodingOfWrittenWords : Obligations.DecodingOfWrittenWords := by
  unfold Obligations.DecodingOfWrittenWords
  decide

/-! ### The assembler (30 R98) -/

theorem Asm.assemble_init (k : Nat) :
    (Asm.init k).assemble = if 1 ≤ k ∧ k ≤ 63 then some (encode (.init (BitVec.ofNat 6 k))) else none := by
  simp only [Asm.assemble, Asm.wellFormed, Bool.and_eq_true, decide_eq_true_eq]

theorem Asm.assemble_fast (v : Nat) :
    (Asm.fast v).assemble = if v ≤ 255 then some (encode (.fast (BitVec.ofNat 8 v))) else none := by
  simp only [Asm.assemble, Asm.wellFormed, decide_eq_true_eq]

theorem Asm.assemble_full (v : Nat) :
    (Asm.full v).assemble = if v ≤ 255 then some (encode (.full (BitVec.ofNat 8 v))) else none := by
  simp only [Asm.assemble, Asm.wellFormed, decide_eq_true_eq]

theorem Asm.assemble_word (w : Nat) :
    (Asm.word w).assemble = if w < 2 ^ 32 then some (BitVec.ofNat 32 w) else none := by
  simp only [Asm.assemble, Asm.wellFormed, decide_eq_true_eq]

/-- Settles O6: an operand in range fits its field, so the field holds it whole. -/
theorem assemblerNeverTruncates : Obligations.AssemblerNeverTruncates := by
  refine ⟨fun k => ?_, fun v => ?_, fun v => ?_, fun w => ?_, rfl, rfl, rfl⟩
  · rw [Asm.assemble_init]
    split
    · rw [Option.map_some, encode_init_toNat, BitVec.toNat_ofNat, Nat.mod_eq_of_lt (by omega)]
    · rfl
  · rw [Asm.assemble_fast]
    split
    · rw [Option.map_some, encode_fast_toNat, BitVec.toNat_ofNat, Nat.mod_eq_of_lt (by omega)]
    · rfl
  · rw [Asm.assemble_full]
    split
    · rw [Option.map_some, encode_full_toNat, BitVec.toNat_ofNat, Nat.mod_eq_of_lt (by omega)]
    · rfl
  · rw [Asm.assemble_word]
    split
    next hw => rw [Option.map_some, BitVec.toNat_ofNat, Nat.mod_eq_of_lt hw]
    next => rfl

end Sys2Proof
end

section
/-! SUPPORT. An illegal word in flight (30 R96, 60 R192); and the statement that follows. -/

namespace Sys2Proof.Machine

/-- The completion step of a word that does not decode raises `ILL` and clears `BUSY`. -/
theorem State.Completes.step_eq_raise_ill {s : State} {es : List Event} {r : Reject} (h : s.Completes es)
    (hd : decode s.pend = .error r) :
    step s = .next { s with busy := false, events := es, errors := { s.errors with ill := true } } := by
  rw [h.step_eq, completeCommand, State.setEvents_pend, hd]
  rfl

/-- A check that passes or errs passes exactly when its condition holds, with its own answer. -/
theorem ite_ok_error_eq_ok_iff {ε α : Type} {c : Prop} [Decidable c] {a b : α} {e : ε} :
    (if c then Except.ok a else Except.error e) = Except.ok b ↔ c ∧ a = b := by
  by_cases h : c <;> simp [h]

/-- Settles O25: each kind of illegal word is rejected, so its completion raises `ILL`. -/
theorem illegalWordRaisesIllOnly : Obligations.IllegalWordRaisesIllOnly := by
  intro s es hs hill
  obtain ⟨hreserved, hz, hk, hv⟩ := illegalEncodingsRejected s.pend
  obtain hop | ⟨hop, hd⟩ | ⟨hop, hd⟩ | ⟨hop, hd⟩ := hill
  · exact hs.step_eq_raise_ill (hreserved hop)
  · exact hs.step_eq_raise_ill (hz hop hd)
  · exact hs.step_eq_raise_ill (hk hop hd)
  · exact hs.step_eq_raise_ill (hv hop hd)

end Sys2Proof.Machine
end

section
/-! SUPPORT. The context-control commands (40 R110 to R112) and the binding of a table that a digest waits for (40 R111,
70 R212); and the statements that follow. -/

namespace Sys2Proof.Machine

/-! ### NOP, INIT and PASS2 -/

/-- Settles O7: a command has one word, and `NOP` answers the state it is given. -/
theorem nopChangesNothing : Obligations.NopChangesNothing :=
  ⟨fun _ => decode_eq_ok_iff, fun _ => rfl⟩

/-- Settles O9: a command has one word, and `exec_pass2` answers by whether the phase is `PASS1`. -/
theorem pass2SwitchesPass : Obligations.Pass2SwitchesPass := by
  refine ⟨fun _ => decode_eq_ok_iff, fun s => ⟨fun hp => ?_, fun hp => ?_⟩⟩
  · rw [exec_pass2, if_pos hp]
    rfl
  · rw [exec_pass2, if_neg hp]
    rfl

/-- The word of `INIT K` is its match with `K` in the low bits (30 R94). -/
theorem encode_init_eq_or (k : BitVec 6) : encode (.init k) = 0x10000000#32 ||| k.setWidth 32 := rfl

/-- An `INIT` with a `K` in range starts a context. -/
theorem exec_init_of_legal {k : BitVec 6} (hk : 1 ≤ k.toNat ∧ k.toNat ≤ 32) (s : State) :
    exec (.init k) s = .next (s.startContext k) := by
  rw [exec_init, if_pos ((mapBitsLegal_iff k).mpr hk)]

/-- An `INIT` with a `K` out of range leaves the context for `IDLE` and raises `CFG`. -/
theorem exec_init_of_illegal {k : BitVec 6} (hk : ¬ (1 ≤ k.toNat ∧ k.toNat ≤ 32)) (s : State) :
    exec (.init k) s = .next ((s.setPhase .idle).raise .cfg) := by
  rw [exec_init, if_neg (mt (mapBitsLegal_iff k).mp hk)]

/-- Settles O8: the word by `encode_init_eq_or`, and each field of the next state by `State.startContext` or
`State.raise`. -/
theorem initStartsOrAbandons : Obligations.InitStartsOrAbandons := by
  refine fun k s => ⟨fun w => ?_, fun hk => ?_, fun hk => exec_init_of_illegal (by omega) s⟩
  · rw [← encode_init_eq_or, decode_eq_ok_iff]
  · have hzero {α : Type} (x : α) (i : Slot) : (Vector.replicate 32 x)[i] = x := Vector.getElem_replicate _
    exact ⟨_, exec_init_of_legal hk s, hzero 0, rfl, rfl, rfl, rfl, rfl, rfl, rfl, hzero 0, rfl, rfl, rfl, rfl, rfl,
      fun _ => rfl, rfl, rfl, rfl, rfl, rfl, rfl⟩

/-! ### Binding a table -/

/-- When a digest still waits for its table (log 10). -/
theorem State.awaitsTable_iff (s : State) :
    s.awaitsTable = true ↔ s.table.size = 0 ∧ s.past = [] ∧ s.reads = s.readsAtInit
      ∧ ¬ (s.busy = true ∧ readsTableWord s.pend = true) := by
  simp [State.awaitsTable, State.tableUnread, and_assoc, imp_iff_not_or]

/-- A binding takes effect at once, whether or not a command is in flight. -/
theorem step_bindTable {s : State} {size : Nat} {cells : List Host.Cell} {es : List Event}
    (he : s.events = .bindTable size cells :: es) :
    step s = .next ((s.setEvents es).bindTable (Memory.ofCells size cells)) := by
  simp [step, schedule, he]

/-- Settles O56: the step is `State.bindTable`, whose condition is the one of the statement. -/
theorem tableBinding : Obligations.TableBinding := by
  intro s size cells es he
  refine ⟨fun hwaits => ?_, fun hwaits => ?_⟩
  · have ⟨_, hpast, _, _⟩ := hwaits
    have hawaits : (s.setEvents es).awaitsTable = true := (s.setEvents es).awaitsTable_iff.mpr hwaits
    rw [step_bindTable he, State.bindTable, if_pos hawaits, State.setEvents_past, hpast]
    rfl
  · have hawaits : ¬ (s.setEvents es).awaitsTable = true := mt (s.setEvents es).awaitsTable_iff.mp hwaits
    rw [step_bindTable he, State.bindTable, if_neg hawaits]
    rfl

end Sys2Proof.Machine
end

section
/-! SUPPORT. Pass 1 (file 41): the operands of the fast step, what `FAST V` writes, and the first 32 bytes of a digest; and the
statements that follow. -/

namespace Sys2Proof.Machine

/-! ### Operands (41 R131, R137) -/

/-- A widened byte, shifted left by at most 20, has no bit above bit 27. -/
theorem zext64_shiftLeft_ushiftRight (b : Byte) {n : Nat} (hn : n ≤ 20) : (zext64 b <<< n) >>> 28 = 0 := by
  ext i
  have hhigh : b.getLsbD (28 + i - n) = false := BitVec.getLsbD_of_ge b _ (by omega)
  simp [zext64, hhigh]

/-- Settles O16: `INJ` is an XOR of bytes shifted left by at most 20, and the shift right distributes over it. -/
theorem injectionConfined : Obligations.InjectionConfined := by
  intro v bb
  change injection (zext64 v) (zext64 bb) >>> 28 = 0
  have hv : zext64 v >>> 28 = 0 := by
    rw [← BitVec.shiftLeft_zero (zext64 v)]
    exact zext64_shiftLeft_ushiftRight v (Nat.zero_le 20)
  simp [injection, BitVec.ushiftRight_xor_distrib, zext64_shiftLeft_ushiftRight, hv]

/-- Settles O50: the mask and the index by value, and a remainder is below its modulus. -/
theorem lookupIndexInRange : Obligations.LookupIndexInRange := by
  intro k x _ hk
  have hidx := tableIndex_toNat hk x
  refine ⟨maskOf_toNat hk, hidx, ?_⟩
  rw [hidx]
  exact Nat.mod_lt _ (Nat.two_pow_pos _)

/-- `MASK` is `2^K - 1` for all 64 values of the field, legal or not. -/
theorem maskOf_toNat_of_any (k : BitVec 6) : (maskOf k).toNat = 2 ^ k.toNat - 1 := by
  revert k
  decide

/-- The index of a lookup under any value of `MAPBITS`: an index too wide for the port is cut to its 32 bits. -/
theorem tableIndex_eq_ofNat (k : BitVec 6) (x : Word) :
    tableIndex k x = BitVec.ofNat 32 (x.toNat % 2 ^ k.toNat) := by
  rw [tableIndex, ← BitVec.ofNat_toNat, BitVec.toNat_and, maskOf_toNat_of_any, Nat.and_two_pow_sub_one_eq_mod]

/-- `CNT[4:0]` is `CNT mod 32`. -/
theorem slotOf_val (cnt : Reg) : (slotOf cnt).val = cnt.toNat % 32 := by
  simpa using slotIsByteIndexMod32 cnt.toNat

/-! ### The fast step (41 R130, R133) -/

/-- Settles O15: the rotation is parallel, and the third one puts each register back. -/
theorem rotateIsThreeCycle : Obligations.RotateIsThreeCycle :=
  fun _ => ⟨rfl, rfl, rfl, rfl⟩

/-- Line (1): the byte looked up is the table's answer at the operand modulo `2^MAPBITS`. -/
theorem fastByte_eq (v : Word) (s : State) :
    fastByte v s =
      (s.tableRead s.reads (BitVec.ofNat 32 ((s.acc ^^^ v).toNat % 2 ^ s.mapBits.toNat))).setWidth 64 := by
  rw [fastByte, State.lookup, tableIndex_eq_ofNat, zext64]

/-- Line (4): the slot stores the new `S1`, which the rotation moves to `S2`, XOR the new `AS`. -/
theorem fastStep_hs_self (p : Params) (v : Word) (i : Slot) (s : State) :
    (fastStep p v i s).hs[i] = (fastStep p v i s).s2 ^^^ (fastStep p v i s).acc := by
  simp

/-- A fast step writes no slot but its own. -/
theorem fastStep_hs_other (p : Params) (v : Word) {i j : Slot} (h : j ≠ i) (s : State) :
    (fastStep p v i s).hs[j] = s.hs[j] :=
  Vector.getElem_set_ne i.isLt j.isLt (Fin.val_ne_of_ne h.symm)

/-! ### FAST (41 R134) -/

/-- The word of `FAST V` is its match with `V` in the low byte (30 R94). -/
theorem encode_fast_eq_or (v : Byte) : encode (.fast v) = 0x20000000#32 ||| v.setWidth 32 := rfl

/-- A `FAST` in `PASS1` takes one fast step and counts the byte. -/
theorem exec_fast_of_pass1 {s : State} (h : s.phase = .pass1) (v : Byte) :
    exec (.fast v) s = .next (fastStep Config.params (zext64 v) s.idx s).countByte := by
  rw [exec_fast, if_pos h]

/-- Settles O10: the word by `encode_fast_eq_or`; in `PASS1` each field by the fast step at slot `CNT mod 32`. -/
theorem fastAbsorbsByte : Obligations.FastAbsorbsByte := by
  intro v s idx hidx
  have hslot : s.idx = idx := Fin.ext ((slotOf_val s.cnt).trans hidx.symm)
  refine ⟨fun w => ?_, fun hp => ?_, fun hp => ⟨_, exec_fast_of_pass1 hp v, ?_⟩⟩
  · rw [← encode_fast_eq_or, decode_eq_ok_iff]
  · rw [exec_fast, if_neg hp]
    rfl
  · rw [hslot]
    refine ⟨?_, rfl, rfl, fastStep_same Config.params (zext64 v) idx s, fun _ => rfl⟩
    dsimp only
    rw [← zext64, ← fastByte_eq]
    exact ⟨rfl, fastStep_hs_self Config.params (zext64 v) idx s,
      fun j hj => fastStep_hs_other Config.params (zext64 v) hj s, rfl, rfl, rfl⟩

/-! ### The first 32 bytes of a digest (41 R136) -/

/-- Commands run in two parts. -/
theorem runInstrs_append {xs ys : List Instr} {s t : State} (h : runInstrs xs s = .next t) :
    runInstrs (xs ++ ys) s = runInstrs ys t := by
  induction xs generalizing s with
  | nil =>
    cases h
    rfl
  | cons i is ih =>
    obtain ⟨u, hu, -⟩ := exec_sameTableAndHost i s
    rw [runInstrs, hu] at h
    rw [List.cons_append, runInstrs, hu]
    exact ih h

/-- The self-shifts of 0 and an empty slot give 0, whatever the shift amounts. -/
@[simp] theorem fastS1_zero (p : Params) : fastS1 p 0 0 = 0 := by
  simp [fastS1, shl, shr]

/-- `s` stands in pass 1 after `n` bytes, has zero in the rotating registers, and has the slots from `n` on as `INIT` left
them. -/
structure FirstBytes (n : Nat) (s : State) : Prop where
  phase : s.phase = .pass1
  cnt : s.cnt = BitVec.ofNat 32 n
  s1 : s.s1 = 0
  s2 : s.s2 = 0
  s3 : s.s3 = 0
  untouched : ∀ i : Slot, n ≤ i.val → s.hs[i] = 0

/-- A context that `INIT` has just started has taken no byte. -/
theorem State.startContext_firstBytes (s : State) (k : BitVec 6) : FirstBytes 0 (s.startContext k) :=
  ⟨rfl, rfl, rfl, rfl, rfl, fun _ _ => Vector.getElem_replicate _⟩

section
variable {n : Nat} {s : State} {i : Slot} (h : FirstBytes n s) (hi : i.val = n)
include h hi

/-- Byte `n` goes to slot `n`. -/
theorem FirstBytes.idx_eq : s.idx = i := by
  have hslot := slotIsByteIndexMod32 n
  exact Fin.ext (by rw [State.idx, h.cnt]; omega)

/-- Line (3) writes 0: `S1` and the slot it reads are 0. -/
theorem FirstBytes.fastS1_eq_zero (p : Params) : fastS1 p s.s1 s.hs[i] = 0 := by
  rw [h.s1, h.untouched i hi.ge, fastS1_zero]

/-- Line (4) stores the new `AS`. -/
theorem FirstBytes.slot_eq_acc (p : Params) (v : Word) : (fastStep p v i s).hs[i] = (fastStep p v i s).acc := by
  rw [fastStep_hs_self, fastStep_s2, h.fastS1_eq_zero hi]
  exact BitVec.zero_xor

/-- The step at slot `n` keeps the registers zero and leaves the slots after it alone. -/
theorem FirstBytes.succ (p : Params) (v : Word) : FirstBytes (n + 1) (fastStep p v i s).countByte where
  phase := h.phase
  cnt := (congrArg (· + 1) h.cnt).trans (BitVec.ofNat_add n 1).symm
  s1 := h.s3
  s2 := h.fastS1_eq_zero hi p
  s3 := h.s2
  untouched j hj := (fastStep_hs_other p v (Fin.ne_of_gt (by omega)) s).trans (h.untouched j (by omega))

end

/-- `INIT K` and a `FAST` of each byte of `x` run from `s` to `t`, each byte's `AS` standing in its own slot of `t`. -/
structure ShortInput (s : State) (k : BitVec 6) (x : List Byte) (t : State) : Prop where
  run : runInstrs (.init k :: x.map .fast) s = .next t
  firstBytes : FirstBytes x.length t
  slots : ∀ i : Slot, i.val < x.length →
    ∃ u, runInstrs (.init k :: (x.take (i.val + 1)).map .fast) s = .next u ∧ t.hs[i] = u.acc

/-- One byte more: its own slot gets its `AS`, and the slots of the bytes before it stay. -/
theorem ShortInput.snoc {s t : State} {k : BitVec 6} {x : List Byte} (h : ShortInput s k x t) (hx : x.length < 32)
    (v : Byte) : ShortInput s k (x ++ [v]) (fastStep Config.params (zext64 v) ⟨x.length, hx⟩ t).countByte := by
  set idx : Slot := ⟨x.length, hx⟩
  have hrun : runInstrs (.init k :: (x ++ [v]).map .fast) s =
      .next (fastStep Config.params (zext64 v) idx t).countByte := by
    rw [List.map_append, ← List.cons_append, runInstrs_append h.run, List.map_singleton, runInstrs,
      exec_fast_of_pass1 h.firstBytes.phase, h.firstBytes.idx_eq (i := idx) rfl]
    rfl
  refine ⟨hrun, ?_, fun i hi => ?_⟩
  · rw [List.length_append]
    exact h.firstBytes.succ rfl _ _
  · rw [List.length_append, List.length_singleton] at hi
    obtain hlt | hlast := Nat.lt_or_eq_of_le (Nat.le_of_lt_succ hi)
    · obtain ⟨u, hu, hacc⟩ := h.slots i hlt
      rw [List.take_append_of_le_length hlt]
      exact ⟨u, hu, (fastStep_hs_other _ _ (Fin.ne_of_lt hlt) t).trans hacc⟩
    · obtain rfl : i = idx := Fin.ext hlast
      rw [List.take_of_length_le (by simp [idx])]
      exact ⟨_, hrun, h.firstBytes.slot_eq_acc rfl _ _⟩

/-- Every input of at most 32 bytes runs so, byte after byte. -/
theorem exists_shortInput (s : State) {k : BitVec 6} (hk : mapBitsLegal k = true) {x : List Byte} (hx : x.length ≤ 32) :
    ∃ t, ShortInput s k x t := by
  induction x using List.reverseRecOn with
  | nil =>
    refine ⟨s.startContext k, ?_, s.startContext_firstBytes k, fun i hi => absurd hi (Nat.not_lt_zero _)⟩
    rw [List.map_nil, runInstrs, exec_init_of_legal ((mapBitsLegal_iff k).mp hk)]
    rfl
  | append_singleton x v ih =>
    rw [List.length_append, List.length_singleton] at hx
    obtain ⟨t, ht⟩ := ih (by omega)
    exact ⟨_, ht.snoc hx v⟩

/-- Settles O17: the run of `exists_shortInput`, whose registers and later slots `FirstBytes` gives. -/
theorem shortInputsKeepRegistersZero : Obligations.ShortInputsKeepRegistersZero := by
  intro s k x hk hx
  obtain ⟨t, ht⟩ := exists_shortInput s hk hx
  have hfirst := ht.firstBytes
  exact ⟨t, ht.run, hfirst.s1, hfirst.s2, hfirst.s3, hfirst.untouched, ht.slots⟩

end Sys2Proof.Machine
end

section
/-! SUPPORT. The full diffusion network (42 R152 to R154): what its interpreter computes, the order of its assignments, and what
each of them reads; and the statements that follow. -/

namespace Sys2Proof

/-- Settles O60: each clause is the interpreter's own equation for that case. -/
theorem networkComputesXorOfTerms : Obligations.NetworkComputesXorOfTerms :=
  fun _ _ _ => ⟨rfl, fun _ _ _ => rfl, rfl, fun _ _ _ => ⟨rfl, rfl⟩, fun _ _ _ => rfl, rfl, fun _ _ _ => ⟨rfl, rfl⟩,
    ⟨rfl, rfl, rfl, rfl, rfl⟩, fun _ => ⟨rfl, rfl, rfl, rfl⟩⟩

/-! ### Where the slot's assignment stands among the blocks (42 R154) -/

/-- No block writes the state slot. -/
theorem FullMix.blocks_target (m : FullMix) : ∀ x ∈ m.blocks, x.target ≠ .h := by
  rw [m.blocks_eq]
  exact List.forall_mem_append.mpr ⟨m.opening_target, by simp [FullMix.f1Assignment, FullMix.f2Assignment]⟩

/-- The slot's assignment is the only one of the slot. -/
theorem FullMix.assignments_filter_h (m : FullMix) :
    m.assignments.filter (fun x => x.target = .h) = [m.slotAssignment] := by
  have hnone : ∀ ys ⊆ m.blocks, ys.filter (fun x => x.target = .h) = [] := fun ys hys =>
    List.filter_eq_nil_iff.mpr fun x hx => by simpa using m.blocks_target x (hys hx)
  rw [FullMix.assignments, List.filter_append, List.filter_cons_of_pos rfl, hnone _ (List.take_subset _ _),
    hnone _ (List.drop_subset _ _), List.nil_append]

/-- Without the slot's assignment the network is its blocks, wherever that assignment stands. -/
theorem FullMix.assignments_filter_ne_h (m : FullMix) :
    m.assignments.filter (fun x => x.target ≠ .h) = m.blocks := by
  have hall : ∀ ys ⊆ m.blocks, ys.filter (fun x => x.target ≠ .h) = ys := fun ys hys =>
    List.filter_eq_self.mpr fun x hx => by simpa using m.blocks_target x (hys hx)
  rw [FullMix.assignments, List.filter_append, List.filter_cons_of_neg (by simp [FullMix.slotAssignment]),
    hall _ (List.take_subset _ _), hall _ (List.drop_subset _ _), List.take_append_drop]

/-- The terms of the slot's assignment: those of `X`, and shifts of the old slot word. -/
theorem FullMix.mem_slotAssignment_terms {m : FullMix} {t : Term Src Src} :
    t ∈ m.slotAssignment.terms ↔
      (∃ x ∈ m.slotX.toList, .plain (x.rename MixSrc.toSrc) = t) ∨ ∃ c ∈ m.slotSelf.toList, .plain ⟨.h, c⟩ = t := by
  rw [FullMix.slotAssignment, List.mem_append, List.mem_map, List.mem_map]

/-- A term of `X` is a shifted `s1` or a shifted `a`. -/
theorem MixSrc.plain_rename_cases (x : Shifted MixSrc) :
    Term.plain (κ := Src) (x.rename MixSrc.toSrc) = .plain ⟨.s1, x.shift⟩
      ∨ Term.plain (κ := Src) (x.rename MixSrc.toSrc) = .plain ⟨.a, x.shift⟩ := by
  obtain ⟨src, c⟩ := x
  cases src
  · exact .inl rfl
  · exact .inr rfl

/-- The first entry of a chain is one of its entries. -/
theorem Chain.first_mem {α : Type} (c : Chain α) : c.first ∈ c.toList := List.mem_cons_self

/-- Settles O19: the one assignment of the slot is `slotAssignment`, whose two chains of terms are not empty. -/
theorem networkAssignsSlotOnce : Obligations.NetworkAssignsSlotOnce := by
  intro m
  refine ⟨m.slotAssignment, m.assignments_filter_h, fun t ht => ?_, ⟨m.slotSelf.first, ?_⟩, ⟨m.slotX.first.shift, ?_⟩⟩
  · obtain ⟨x, -, rfl⟩ | ⟨c, -, rfl⟩ := FullMix.mem_slotAssignment_terms.mp ht
    · exact ⟨x.shift, (MixSrc.plain_rename_cases x).imp_right .inl⟩
    · exact ⟨c, .inr (.inr rfl)⟩
  · exact FullMix.mem_slotAssignment_terms.mpr (.inr ⟨_, m.slotSelf.first_mem, rfl⟩)
  · have hmem := FullMix.mem_slotAssignment_terms.mpr (.inl ⟨_, m.slotX.first_mem, rfl⟩)
    obtain h | h := MixSrc.plain_rename_cases m.slotX.first
    · exact .inl (h ▸ hmem)
    · exact .inr (h ▸ hmem)

/-! ### What the blocks read (42 R153) -/

section
variable {σ κ : Type} {f : σ → Src} {g : κ → Src} {plain keys : List Src} (hf : ∀ x, f x ∈ plain) (hg : ∀ x, g x ∈ keys)
include hf hg

/-- Terms renamed into two lists of sources read these only. -/
theorem Assignment.readsOnly_rename (t : Target) (rhs : Rhs σ κ) :
    Assignment.ReadsOnly ⟨t, rhs.toList.map (fun x => x.rename f g)⟩ plain keys := by
  intro y hy
  obtain ⟨x, -, rfl⟩ := List.mem_map.mp hy
  cases x with
  | plain x => exact hf x.src
  | lookup key c =>
    intro k hk
    obtain rfl | hk := List.mem_cons.mp hk
    · exact hg key.first.src
    · obtain ⟨k', -, rfl⟩ := List.mem_map.mp hk
      exact hg k'.src

/-- Every assignment of a block writes the block's value and reads the block's sources. -/
theorem blockOf_readsOnly (t : Target) (block : Chain (Rhs σ κ)) :
    ∀ x ∈ blockOf t f g block, x.target = t ∧ x.ReadsOnly plain keys := by
  intro x hx
  obtain ⟨rhs, -, rfl⟩ := List.mem_map.mp hx
  exact ⟨rfl, Assignment.readsOnly_rename hf hg t rhs⟩

end

/-- A block has at least one assignment. -/
theorem blockOf_ne_nil {σ κ : Type} (t : Target) (f : σ → Src) (g : κ → Src) (block : Chain (Rhs σ κ)) :
    blockOf t f g block ≠ [] := List.cons_ne_nil _ _

theorem MixSrc.toSrc_mem (x : MixSrc) : x.toSrc ∈ [Src.s1, .a] := by cases x <;> decide

theorem MixKey.toSrc_mem (x : MixKey) : x.toSrc ∈ [Src.a, .s1, .v] := by cases x <;> decide

theorem S2Src.toSrc_mem (x : S2Src) : x.toSrc ∈ [Src.s1, .a, .s2] := by cases x <;> decide

theorem F2Src.toSrc_mem (x : F2Src) : x.toSrc ∈ [Src.s1, .s2, .h, .a] := by cases x <;> decide

/-- A key of the other blocks may read every working value and `v`. -/
theorem Src.mem_all (x : Src) : id x ∈ [Src.s1, .a, .s2, .h, .v] := by cases x <;> decide

/-- Settles O20: without the slot's assignment the network is `blocks`, and each block reads what its type admits. -/
theorem networkBlockOrder : Obligations.NetworkBlockOrder := by
  intro m
  have hplain : ∀ y : MixSrc, y.toSrc ∈ [Src.a, .s1] := fun y => List.mem_reverse.mpr y.toSrc_mem
  have hs1 := blockOf_readsOnly MixSrc.toSrc_mem MixKey.toSrc_mem .s1
  have ha := blockOf_readsOnly hplain Src.mem_all .a
  have hs2 := blockOf_readsOnly S2Src.toSrc_mem Src.mem_all .s2
  have hf2 := Assignment.readsOnly_rename F2Src.toSrc_mem Src.mem_all .a m.f2
  exact ⟨fun _ _ _ => rfl, _, _, _, _, _, m.f1Assignment, m.f2Assignment, m.f1.toList,
    m.assignments_filter_ne_h.trans m.blocks_eq, blockOf_ne_nil _ _ _ _, blockOf_ne_nil _ _ _ _, blockOf_ne_nil _ _ _ _,
    blockOf_ne_nil _ _ _ _, blockOf_ne_nil _ _ _ _, List.cons_ne_nil _ _,
    List.forall_mem_append.mpr ⟨hs1 m.s1a, hs1 m.s1b⟩, List.forall_mem_append.mpr ⟨ha m.asa, ha m.asb⟩, hs2 m.s2,
    rfl, rfl, rfl, hf2⟩

end Sys2Proof
end

section
/-! SUPPORT. Pass 2 (file 42): what a full step reads and writes, what `FULL V` does, and that pass 2 depends on the carried
state only; and the statements that follow. -/

namespace Sys2Proof.Machine

/-! ### The full step (42 R150, R151) -/

/-- The slot of a full step stores the network's new `h`. -/
theorem fullStep_hs_self (p : Params) (v : Word) (i : Slot) (s : State) :
    (fullStep p v i s).hs[i] = (fullWork p v i s).h := by
  simp

/-- A full step writes no slot but its own. -/
theorem fullStep_hs_other (p : Params) (v : Word) {i j : Slot} (h : j ≠ i) (s : State) :
    (fullStep p v i s).hs[j] = s.hs[j] :=
  Vector.getElem_set_ne i.isLt j.isLt (Fin.val_ne_of_ne h.symm)

/-- Two states with the same operands have the same working values at entry, whatever the slots' numbers. -/
theorem State.work_congr {s s' : State} {i i' : Slot} (hacc : s'.acc = s.acc) (hs1 : s'.s1 = s.s1) (hs2 : s'.s2 = s.s2)
    (hslot : s'.hs[i'] = s.hs[i]) (v : Word) : s'.work v i' = s.work v i := by
  rw [State.work, State.work, hacc, hs1, hs2, hslot]

/-- Settles O18: the network's result depends on the working values at entry, the lookup and the read number only. -/
theorem fullStepReadsItsOperandsOnly : Obligations.FullStepReadsItsOperandsOnly := by
  intro p v i i' s s' hacc hs1 hs2 hslot hmap htable hpast hreads
  have hwork : fullWork p v i' s' = fullWork p v i s := by
    rw [fullWork, fullWork, State.lookup_congr htable hpast hmap, State.work_congr hacc hs1 hs2 hslot, hreads]
  refine ⟨congrArg Work.a hwork, congrArg Work.s1 hwork, congrArg Work.s2 hwork, ?_,
    fun j hj => fullStep_hs_other p v hj s', rfl, rfl, fullStep_same p v i' s'⟩
  rw [fullStep_hs_self, fullStep_hs_self, hwork]

/-! ### FULL (42 R156) -/

/-- The word of `FULL V` is its match with `V` in the low byte (30 R94). -/
theorem encode_full_eq_or (v : Byte) : encode (.full v) = 0x40000000#32 ||| v.setWidth 32 := rfl

/-- A `FULL` in `PASS2` takes one full step and counts the byte. -/
theorem exec_full_of_pass2 {s : State} (h : s.phase = .pass2) (v : Byte) :
    exec (.full v) s = .next (fullStep Config.params (zext64 v) s.idx s).countByte := by
  rw [exec_full, if_pos h]

/-- A lookup reads the table at the operand modulo `2^MAPBITS`. -/
theorem State.lookup_eq (s : State) :
    s.lookup = fun n x => s.tableRead n (BitVec.ofNat 32 (x.toNat % 2 ^ s.mapBits.toNat)) := by
  funext n x
  rw [State.lookup, tableIndex_eq_ofNat]

/-- Settles O11: the word by `encode_full_eq_or`; in `PASS2` each field by the full step at slot `CNT mod 32`. -/
theorem fullAbsorbsByte : Obligations.FullAbsorbsByte := by
  intro v s idx hidx
  have hslot : s.idx = idx := Fin.ext ((slotOf_val s.cnt).trans hidx.symm)
  refine ⟨fun w => ?_, fun hp => ?_, fun hp => ⟨_, exec_full_of_pass2 hp v, ?_⟩⟩
  · rw [← encode_full_eq_or, decode_eq_ok_iff]
  · rw [exec_full, if_neg hp]
    rfl
  · rw [hslot]
    refine ⟨?_, rfl, fullStep_reads Config.params (zext64 v) idx s, fullStep_same Config.params (zext64 v) idx s,
      fun _ => rfl⟩
    dsimp only
    rw [← State.lookup_eq]
    exact ⟨rfl, fullStep_hs_self Config.params (zext64 v) idx s,
      fun j hj => fullStep_hs_other Config.params (zext64 v) hj s, rfl, rfl, rfl⟩

/-! ### A table that stays (20 R68, R69; 42 R157) -/

/-- The index of a lookup is below `2^K`, for every value of `MAPBITS`. -/
theorem tableIndex_lt (k : BitVec 6) (x : Word) : (tableIndex k x).toNat < 2 ^ k.toNat := by
  rw [tableIndex_eq_ofNat, BitVec.toNat_ofNat]
  exact (Nat.mod_le _ _).trans_lt (Nat.mod_lt _ (Nat.two_pow_pos _))

/-- With a table that stays, a lookup is a function of the table, `MAPBITS` and the operand: its number does not matter. -/
theorem State.lookup_of_stable {s : State} (h : s.TableStable) (n : Nat) (x : Word) :
    s.lookup n x = s.table.byteAt (tableIndex s.mapBits x).toNat := by
  obtain ⟨hpast, hsize⟩ := h
  have hread := Memory.read?_eq_some_answer ((tableIndex_lt s.mapBits x).trans_le hsize) n
  rw [State.lookup, State.tableRead, hpast, versionFor_nil, Memory.byteAt, hread, Option.getD_some]

/-- With a table that stays, the network's result does not depend on the number of reads made before. -/
theorem fullWork_of_stable {s : State} (h : s.TableStable) (p : Params) (v : Word) (i : Slot) :
    fullWork p v i s =
      (p.fullMix.run (fun _ x => s.table.byteAt (tableIndex s.mapBits x).toNat) (s.work v i) 0).1 :=
  FullMix.run_unnumbered (State.lookup_of_stable h) p.fullMix (s.work v i) s.reads 0

/-! ### Pass 2 on two states that carry the same (42 R157) -/

/-- `s` and `t` stand in pass 2 with the same carried state and the same table, which stays in both. -/
structure SamePass2 (s t : State) : Prop where
  left_phase : s.phase = .pass2
  right_phase : t.phase = .pass2
  datapath : SameDatapath s t
  cnt : t.cnt = s.cnt
  mapBits : t.mapBits = s.mapBits
  table : t.table = s.table
  left_stable : s.TableStable
  right_stable : t.TableStable

/-- The network gives both states the same result. -/
theorem SamePass2.fullWork_eq {s t : State} (h : SamePass2 s t) (p : Params) (v : Word) (i : Slot) :
    fullWork p v i t = fullWork p v i s := by
  obtain ⟨hhs, hacc, hs1, hs2, -⟩ := h.datapath
  rw [fullWork_of_stable h.left_stable, fullWork_of_stable h.right_stable, h.table, h.mapBits,
    State.work_congr hacc hs1 hs2 (congrArg (·[i]) hhs)]

/-- A full step keeps two states alike. -/
theorem SamePass2.fullStep_countByte {s t : State} (h : SamePass2 s t) (p : Params) (v : Word) (i : Slot) :
    SamePass2 (fullStep p v i s).countByte (fullStep p v i t).countByte := by
  have hwork := h.fullWork_eq p v i
  obtain ⟨hhs, -, -, -, hs3⟩ := h.datapath
  refine ⟨h.left_phase, h.right_phase, ⟨?_, congrArg Work.a hwork, hs3, congrArg Work.s1 hwork, congrArg Work.s2 hwork⟩,
    congrArg (· + 1) h.cnt, h.mapBits, h.table, h.left_stable, h.right_stable⟩
  simp only [State.countByte_hs, fullStep_hs, hwork, hhs]

/-- The same bytes keep two states alike. -/
theorem SamePass2.runInstrs_full {s t : State} (h : SamePass2 s t) (x : List Byte) :
    ∃ s' t', runInstrs (x.map .full) s = .next s' ∧ runInstrs (x.map .full) t = .next t' ∧ SamePass2 s' t' := by
  induction x generalizing s t with
  | nil => exact ⟨s, t, rfl, rfl, h⟩
  | cons v x ih =>
    have hidx : t.idx = s.idx := congrArg slotOf h.cnt
    simp only [List.map_cons, runInstrs, exec_full_of_pass2 h.left_phase, exec_full_of_pass2 h.right_phase, hidx]
    exact ih (h.fullStep_countByte Config.params (zext64 v) s.idx)

/-- Settles O21: two such states stay alike under each `FULL`. -/
theorem pass2DependsOnCarriedState : Obligations.Pass2DependsOnCarriedState := by
  intro x s s' hs hs' hdata hcnt hmap htable hstable hstable'
  obtain ⟨t, t', ht, ht', hsame⟩ := SamePass2.runInstrs_full ⟨hs, hs', hdata, hcnt, hmap, htable, hstable, hstable'⟩ x
  exact ⟨t, t', ht, ht', hsame.datapath⟩

end Sys2Proof.Machine
end


section
/-! SUPPORT. Pass 3 (file 43): the length check of `FINAL`, what it leaves unchanged, how many table reads it makes, and the order
of its iterations; and the statements that follow. -/

namespace Sys2Proof.Machine

/-! ### The two ways of FINAL in PASS2 (43 R170, R173) -/

/-- A `FINAL` in `PASS2` with equal counts finalizes. -/
theorem exec_final_of_counts_eq {s : State} (hp : s.phase = .pass2) (hc : s.cnt = s.len1) :
    exec .final s = .next ((finalizeDown Config.params 32 (Nat.le_refl 32) s).setPhase .done) := by
  rw [exec_final, if_pos hp, if_pos hc]

/-- Settles O14: the phase check of `exec_final` passes and its length check does not. -/
theorem finalLengthCheck : Obligations.FinalLengthCheck := by
  intro s hp hc
  rw [exec_final, if_pos hp, if_neg hc]
  rfl

/-- The loop over `n` slots makes the network's reads and the two of the digest byte `n` times (70 R219). -/
theorem finalizeDown_reads (p : Params) (n : Nat) (h : n ≤ 32) (s : State) :
    (finalizeDown p n h s).reads = s.reads + n * (p.fullMix.lookups + 2) := by
  induction n generalizing s with
  | zero => simp [finalizeDown]
  | succ n ih =>
    rw [finalizeDown, ih, finalIteration_reads]
    ring

/-- Settles O13: the loop keeps what `SameButFinal` lists, and its reads are those of 32 iterations. -/
theorem finalFrame : Obligations.FinalFrame := by
  intro s hp hc
  obtain ⟨-, hmap, hcnt, hlen, hbusy, hpend, herr, hsel, htable, hpast, hinit, hevents, hreplies⟩ :=
    finalizeDown_same Config.params 32 (Nat.le_refl 32) s
  have hreads := finalizeDown_reads Config.params 32 (Nat.le_refl 32) s
  rw [Nat.mul_add] at hreads
  exact ⟨_, exec_final_of_counts_eq hp hc, rfl, hcnt, hlen, hmap, hbusy, hpend, herr, hsel,
    fun a => congrArg (·.read? a) htable, htable, hpast, hinit, hevents, hreplies, hreads⟩

/-! ### The chain of iterations (43 R171, R172) -/

/-- The state after the iterations of slots 31 down to `n`, from 32 on the state that `FINAL` met. -/
def finalizedDownTo (p : Params) (s : State) (n : Nat) : State :=
  if h : n < 32 then finalIteration p ⟨n, h⟩ (finalizedDownTo p s (n + 1)) else s
termination_by 32 - n

section
variable (p : Params) (s : State)

/-- Slot `i`'s iteration runs on the state that the iterations above it have left. -/
theorem finalizedDownTo_slot (i : Slot) :
    finalizedDownTo p s i = finalIteration p i (finalizedDownTo p s (i.val + 1)) := by
  rw [finalizedDownTo, dif_pos i.isLt]

@[simp] theorem finalizedDownTo_start : finalizedDownTo p s 32 = s := by
  rw [finalizedDownTo, dif_neg (Nat.lt_irrefl 32)]

/-- The iterations keep what the whole loop keeps. -/
theorem finalizedDownTo_same (n : Nat) : SameButFinal s (finalizedDownTo p s n) := by
  fun_induction finalizedDownTo p s n with
  | case1 n h ih => exact ih.trans (finalIteration_same p ⟨n, h⟩ _)
  | case2 n h => exact finalizeDown_same p 0 (Nat.zero_le _) s

/-- A slot that no iteration has reached holds the word that `FINAL` met. -/
theorem finalizedDownTo_hs_below {n : Nat} {i : Slot} (hi : i.val < n) : (finalizedDownTo p s n).hs[i] = s.hs[i] := by
  fun_induction finalizedDownTo p s n with
  | case1 n h ih => rw [finalIteration_hs_other p ⟨n, h⟩ _ (Fin.ne_of_lt hi), ih (Nat.lt_succ_of_lt hi)]
  | case2 n h => rfl

/-- The loop over the slots below `n`, from where the iterations above have come, is the rest of the whole loop. -/
theorem finalizeDown_finalizedDownTo {n : Nat} (h : n ≤ 32) :
    finalizeDown p n h (finalizedDownTo p s n) = finalizeDown p 32 (Nat.le_refl 32) s := by
  induction h using Nat.decreasingInduction with
  | self => rw [finalizedDownTo_start]
  | of_succ n hn ih => rw [← ih, finalizeDown, ← finalizedDownTo_slot p s ⟨n, hn⟩]

end

/-- Settles O12: the chain is `finalizedDownTo`; a digest byte written at slot `i` stays, since the loop goes on below it. -/
theorem finalRunsSlotsDownward : Obligations.FinalRunsSlotsDownward := by
  intro s hp hc
  have hrest {n : Nat} (h : n ≤ 32) := finalizeDown_finalizedDownTo Config.params s h
  refine ⟨finalizedDownTo Config.params s, _, exec_final_of_counts_eq hp hc, finalizedDownTo_start _ s, fun i => ?_, ?_⟩
  · have hiter := finalizedDownTo_slot Config.params s i
    have hlast : (finalizeDown Config.params 32 (Nat.le_refl 32) s).digest[i] = (finalizedDownTo Config.params s i).digest[i] := by
      rw [← hrest i.isLt.le, finalizeDown_digest_above _ _ _ _ (Nat.le_refl i)]
    obtain ⟨-, hmap, -, -, -, -, -, -, htable, hpast, -⟩ := finalizedDownTo_same Config.params s (i.val + 1)
    intro x y b
    have hb : b = y.lookup := (State.lookup_eq s).symm.trans (State.lookup_congr htable hpast hmap).symm
    refine ⟨by rw [hiter]; rfl, ?_, fun j hj => ?_, finalizedDownTo_hs_below _ s (Nat.lt_succ_self i), hlast⟩
    · rw [hb, hiter]
      exact finalIteration_digest_self Config.params i x
    · rw [hiter]
      exact finalIteration_digest_other Config.params i x hj
  · rw [← hrest (Nat.zero_le 32)]
    rfl

end Sys2Proof.Machine
end

section
/-! SUPPORT. The machine and the source's function (43 R175): with a table that stays, each step of a context is the source's
step, and so is the finalization loop. -/

namespace Sys2Proof.Machine

/-- The source's engine state that the datapath holds. -/
def State.ctx (s : State) : Reference.Ctx := ⟨s.hs, s.acc, s.s1, s.s2, s.s3⟩

/-- Every lookup of `s`, whatever its number, is the source's in the table `T` with `2^k` entries. -/
def State.LooksUp (s : State) (T : Nat → Byte) (k : Nat) : Prop := ∀ n x, s.lookup n x = Reference.look T k x

/-- A table that stays answers as the source reads it. -/
theorem State.looksUp_of_stable {s : State} (h : s.TableStable) (hk : s.mapBits.toNat ≤ 32) :
    s.LooksUp s.table.byteAt s.mapBits.toNat := by
  intro n x
  rw [State.lookup_of_stable h, tableIndex_toNat hk, Reference.look]

/-- The slot of byte `n` is the source's. -/
theorem State.idx_eq_slotOfIndex {s : State} {n : Nat} (h : s.cnt = BitVec.ofNat 32 n) : s.idx = Reference.slotOfIndex n := by
  apply Fin.ext
  rw [State.idx, h]
  exact slotIsByteIndexMod32 n

section
variable {s : State} {T : Nat → Byte} {k : Nat} (h : s.LooksUp T k) (p : Params)
include h

/-- The machine's fast step is the source's. -/
theorem State.LooksUp.fastStep_ctx (v : Byte) (i : Slot) :
    (fastStep p (zext64 v) i s).ctx = Reference.fastStep p T k v i s.ctx := by
  have hbyte : fastByte (zext64 v) s = zext64 (Reference.look T k (s.acc ^^^ zext64 v)) := congrArg zext64 (h _ _)
  rw [State.ctx, fastStep_hs, fastStep_acc, hbyte]
  rfl

/-- The machine's full step is the source's. -/
theorem State.LooksUp.fullStep_ctx (v : Word) (i : Slot) :
    (fullStep p v i s).ctx = Reference.fullStep p T k v i s.ctx := by
  have hwork : fullWork p v i s = (p.fullMix.run (fun _ x => Reference.look T k x) (s.work v i) 0).1 :=
    FullMix.run_unnumbered h p.fullMix (s.work v i) s.reads 0
  rw [State.ctx, fullStep_hs, fullStep_acc, fullStep_s2, fullStep_s3, hwork]
  rfl

/-- One iteration of the finalization loop writes the source's byte. -/
theorem State.LooksUp.finalIteration_digest (i : Slot) :
    (finalIteration p i s).digest =
      (let c := Reference.fullStep p T k s.hs[i] i s.ctx
       s.digest.set i (Reference.look T k c.acc ^^^ Reference.look T k c.hs[i])) := by
  rw [← h.fullStep_ctx p s.hs[i] i]
  exact congrArg (s.digest.set i.val · i.isLt) (congrArg₂ (· ^^^ ·) (h _ _) (h _ _))

end

/-- The finalization loop writes the source's bytes. -/
theorem State.LooksUp.finalizeDown_digest {s : State} {T : Nat → Byte} {k : Nat} (h : s.LooksUp T k) (p : Params) (n : Nat)
    (hn : n ≤ 32) : (finalizeDown p n hn s).digest = Reference.pass3 p T k n hn s.ctx s.digest := by
  induction n generalizing s with
  | zero => rfl
  | succ n ih =>
    have hnext : (finalIteration p ⟨n, hn⟩ s).LooksUp T k := h
    rw [finalizeDown, ih hnext, h.finalIteration_digest, Reference.pass3]
    exact congrArg (Reference.pass3 p T k n _ · _) (h.fullStep_ctx p s.hs[n] ⟨n, hn⟩)

end Sys2Proof.Machine
end

section
/-! SUPPORT. How far the commands of `DIGEST K, x` have come (30 R99): the commands left, what the context holds, and the digest
that the rest of the source's function makes of it; each command goes on to the next stage. -/

namespace Sys2Proof.Machine

/-- The stages of `DIGEST K, x`: its `INIT` is to run; the next byte has index `n` and the bytes `vs` are left, in pass 1 or in
pass 2; `FINAL` has run. -/
inductive Stage where
  | init
  | pass1 (n : Nat) (vs : List Byte)
  | pass2 (n : Nat) (vs : List Byte)
  | done

section
variable (k : BitVec 6) (x : List Byte)

/-- The commands left at a stage. -/
def Stage.commands : Stage → List Instr
  | .init => .init k :: (x.map .fast ++ .pass2 :: (x.map .full ++ [.final]))
  | .pass1 _ vs => vs.map .fast ++ .pass2 :: (x.map .full ++ [.final])
  | .pass2 _ vs => vs.map .full ++ [.final]
  | .done => []

/-- What the control fields of the context hold at a stage. -/
def Stage.Met : Stage → State → Prop
  | .init, _ => True
  | .pass1 n vs, s =>
    s.phase = .pass1 ∧ s.mapBits = k ∧ s.cnt = BitVec.ofNat 32 n ∧ n + vs.length = x.length
  | .pass2 n vs, s =>
    s.phase = .pass2 ∧ s.mapBits = k ∧ s.cnt = BitVec.ofNat 32 n ∧ s.len1 = BitVec.ofNat 32 x.length
      ∧ n + vs.length = x.length
  | .done, s => s.phase = .done ∧ s.len1 = BitVec.ofNat 32 x.length

/-- The digest that the rest of the source's function makes of the context at a stage, in the table `T`. -/
def Stage.digest (T : Nat → Byte) : Stage → State → Vector Byte 32
  | .init, _ => Reference.digest Config.params T k.toNat x
  | .pass1 n vs, s =>
    Reference.pass3 Config.params T k.toNat 32 (Nat.le_refl 32)
      (Reference.pass2 Config.params T k.toNat x 0 (Reference.pass1 Config.params T k.toNat vs n s.ctx)) s.digest
  | .pass2 n vs, s =>
    Reference.pass3 Config.params T k.toNat 32 (Nat.le_refl 32) (Reference.pass2 Config.params T k.toNat vs n s.ctx) s.digest
  | .done, s => s.digest

end

variable {k : BitVec 6} {x : List Byte} {st : Stage} {s t : State}

/-- A stage speaks of the context only. -/
theorem SameContext.met (h : SameContext s t) (hs : st.Met k x s) : st.Met k x t := by
  cases st with
  | init => trivial
  | _ => simpa only [Stage.Met, h.phase, h.mapBits, h.cnt, h.len1] using hs

/-- The digest to come depends on the context only. -/
theorem SameContext.stage_digest (h : SameContext s t) (T : Nat → Byte) : st.digest k x T t = st.digest k x T s := by
  obtain ⟨hhs, hacc, hs1, hs2, hs3⟩ := h.datapath
  have hctx : t.ctx = s.ctx := by rw [State.ctx, State.ctx, hhs, hacc, hs1, hs2, hs3]
  cases st <;> simp only [Stage.digest, hctx, h.digest]

/-- The table `m` is at the port, stays there, and has `2^k` entries. -/
structure State.Steady (k : BitVec 6) (m : Memory) (s : State) : Prop where
  table : s.table = m
  past : s.past = []
  size : 2 ^ k.toNat ≤ m.size

/-- Lookups in a steady table are the source's. -/
theorem State.Steady.looksUp {m : Memory} (h : s.Steady k m) (hmap : s.mapBits = k) (hk : k.toNat ≤ 32) :
    s.LooksUp m.byteAt k.toNat := by
  obtain ⟨rfl, hpast, hsize⟩ := h
  subst hmap
  exact State.looksUp_of_stable ⟨hpast, hsize⟩ hk

/-- From `s` at stage `st` the command `i` goes on to a stage with the commands `js` left: it raises no error and, where the
table stays, changes nothing of the digest to come. -/
def Stage.Advances (k : BitVec 6) (x : List Byte) (st : Stage) (s : State) (i : Instr) (js : List Instr) : Prop :=
  ∃ (st' : Stage) (t : State), exec i s = .next t ∧ st'.commands k x = js ∧ st'.Met k x t ∧ t.errors = s.errors
    ∧ ∀ m, s.Steady k m → st'.digest k x m.byteAt t = st.digest k x m.byteAt s

/-- Counting a byte goes on to the next index. -/
theorem add_one_eq_ofNat_succ {c : Reg} {n : Nat} (h : c = BitVec.ofNat 32 n) : c + 1 = BitVec.ofNat 32 (n + 1) := by
  rw [h, BitVec.ofNat_add]
  rfl

section
variable (hk : 1 ≤ k.toNat ∧ k.toNat ≤ 32)
include hk

/-- A legal `INIT` starts pass 1 at byte 0, in the source's start state. -/
theorem Stage.init_advances (s : State) :
    Stage.Advances k x .init s (.init k) (x.map .fast ++ .pass2 :: (x.map .full ++ [.final])) :=
  ⟨.pass1 0 x, _, exec_init_of_legal hk s, rfl, ⟨rfl, rfl, rfl, Nat.zero_add _⟩, rfl, fun _ _ => rfl⟩

/-- `FAST` absorbs the next byte of pass 1. -/
theorem Stage.fast_advances {n : Nat} {v : Byte} {vs : List Byte} (h : (Stage.pass1 n (v :: vs)).Met k x s) :
    Stage.Advances k x (.pass1 n (v :: vs)) s (.fast v) ((Stage.pass1 (n + 1) vs).commands k x) := by
  obtain ⟨hp, hmap, hcnt, hn⟩ := h
  rw [List.length_cons] at hn
  refine ⟨.pass1 (n + 1) vs, _, exec_fast_of_pass1 hp v, rfl, ⟨hp, hmap, add_one_eq_ofNat_succ hcnt, by omega⟩, rfl,
    fun m hm => ?_⟩
  have hctx := (hm.looksUp hmap hk.2).fastStep_ctx Config.params v (Reference.slotOfIndex n)
  rw [Stage.digest, Stage.digest, Reference.pass1, ← hctx, State.idx_eq_slotOfIndex hcnt]
  rfl

/-- `FULL` absorbs the next byte of pass 2. -/
theorem Stage.full_advances {n : Nat} {v : Byte} {vs : List Byte} (h : (Stage.pass2 n (v :: vs)).Met k x s) :
    Stage.Advances k x (.pass2 n (v :: vs)) s (.full v) ((Stage.pass2 (n + 1) vs).commands k x) := by
  obtain ⟨hp, hmap, hcnt, hlen, hn⟩ := h
  rw [List.length_cons] at hn
  refine ⟨.pass2 (n + 1) vs, _, exec_full_of_pass2 hp v, rfl, ⟨hp, hmap, add_one_eq_ofNat_succ hcnt, hlen, by omega⟩, rfl,
    fun m hm => ?_⟩
  have hctx := (hm.looksUp hmap hk.2).fullStep_ctx Config.params (zext64 v) (Reference.slotOfIndex n)
  rw [Stage.digest, Stage.digest, Reference.pass2, ← zext64, ← hctx, State.idx_eq_slotOfIndex hcnt]
  rfl

/-- `FINAL` finds the two counts equal and writes the digest. -/
theorem Stage.final_advances {n : Nat} (h : (Stage.pass2 n []).Met k x s) :
    Stage.Advances k x (.pass2 n []) s .final [] := by
  obtain ⟨hp, hmap, hcnt, hlen, rfl⟩ := h
  obtain ⟨-, -, -, hlen', -, -, herr, -⟩ := finalizeDown_same Config.params 32 (Nat.le_refl 32) s
  refine ⟨.done, _, exec_final_of_counts_eq hp (hcnt.trans hlen.symm), rfl, ⟨rfl, hlen'.trans hlen⟩, herr, fun m hm => ?_⟩
  exact (hm.looksUp hmap hk.2).finalizeDown_digest Config.params 32 (Nat.le_refl 32)

omit hk in
/-- `PASS2` latches the length and starts pass 2 at byte 0. -/
theorem Stage.pass2_advances {n : Nat} (h : (Stage.pass1 n []).Met k x s) :
    Stage.Advances k x (.pass1 n []) s .pass2 (x.map .full ++ [.final]) := by
  obtain ⟨hp, hmap, hcnt, rfl⟩ := h
  refine ⟨.pass2 0 x, s.startPass2, ?_, rfl, ⟨rfl, hmap, rfl, hcnt, Nat.zero_add _⟩, rfl, fun _ _ => rfl⟩
  rw [exec_pass2, if_pos hp]

/-- At every stage the next command goes on. -/
theorem Stage.Met.advances {i : Instr} {js : List Instr} (h : st.Met k x s) (hcmd : st.commands k x = i :: js) :
    st.Advances k x s i js := by
  cases st with
  | init =>
    cases hcmd
    exact Stage.init_advances hk s
  | pass1 n vs =>
    cases vs with
    | nil =>
      cases hcmd
      exact Stage.pass2_advances h
    | cons v vs =>
      cases hcmd
      exact Stage.fast_advances hk h
  | pass2 n vs =>
    cases vs with
    | nil =>
      cases hcmd
      exact Stage.final_advances hk h
    | cons v vs =>
      cases hcmd
      exact Stage.full_advances hk h
  | done => cases hcmd

end

end Sys2Proof.Machine
end

section
/-! SUPPORT. The machine with commands and bystanders ahead (20 R74, 70 R214, R220): a step takes a bystander, accepts the next
command, or completes the command in flight, and each brings the end nearer. -/

namespace Sys2Proof.Machine

variable {s t : State} {e : Event} {es : List Event}

/-- The host submits a command. -/
def commandEvent (i : Instr) : Event := commandWrite (encode i)

@[simp] theorem commandEvent_isBystander (i : Instr) : (commandEvent i).isBystander = false := rfl

@[simp] theorem commandEvent_eq_commandWrite {i : Instr} {w : Reg} : commandEvent i = commandWrite w ↔ encode i = w := by
  simp [commandEvent, commandWrite, registerWrite]

/-- The submissions that have not completed: the command in flight, and those among the events. -/
def State.commandsLeft (s : State) : List Event :=
  (if s.busy then [commandWrite s.pend] else []) ++ s.events.filter (fun e => !e.isBystander)

/-- An upper bound for the steps that are left. -/
def State.stepsLeft (s : State) : Nat := eventsCost s.events + s.commandsLeft.length

@[simp] theorem eventsCost_cons (e : Event) (es : List Event) : eventsCost (e :: es) = eventCost e + eventsCost es := by
  simp [eventsCost]

theorem eventsCost_append (es fs : List Event) : eventsCost (es ++ fs) = eventsCost es + eventsCost fs := by
  simp [eventsCost]

theorem one_le_eventCost (e : Event) : 1 ≤ eventCost e := by
  cases e <;> simp [eventCost]

/-! ### Bystanders -/

/-- From `s` to `t` the bystander `e` has been taken and the events `es` are left: the context, the errors and the command in
flight stay, and the tables as well unless `e` changes the table. -/
structure Takes (e : Event) (es : List Event) (s t : State) : Prop where
  context : SameContext s t
  errors : t.errors = s.errors
  busy : t.busy = s.busy
  pend : t.pend = s.pend
  events : t.events = es
  table : t.table = tableAfter s.table [e]
  past : e.changesTable = false → t.past = s.past

/-- An access that is not held is served. -/
theorem step_served {a : Access} (he : s.events = .access a :: es) (hheld : (s.busy && heldWhileBusy a) = false) :
    step s = .next (serve a (s.setEvents es)) := by
  simp [step, schedule, he, hheld]

/-- Serving a read adds a reply and nothing else. -/
theorem serve_read {a : Access} (h : a.op = .read) (s : State) : ∃ r, serve a s = s.reply r := by
  simp only [serve, h]
  split <;> exact ⟨_, rfl⟩

/-- A read is taken, or held until the command in flight has completed. -/
theorem step_read {a : Access} (he : s.events = .access a :: es) (ha : a.op = .read) :
    s.Completes s.events ∨ ∃ t, step s = .next t ∧ Takes (.access a) es s t := by
  cases hheld : s.busy && heldWhileBusy a with
  | true =>
    obtain ⟨hb, hheld⟩ := (Bool.and_eq_true _ _ ▸ hheld)
    exact .inl ⟨hb, .inr ⟨rfl, .inr (.inr ⟨a, es, he, hheld⟩)⟩⟩
  | false =>
    obtain ⟨r, hr⟩ := serve_read ha (s.setEvents es)
    exact .inr ⟨_, (step_served he hheld).trans (congrArg _ hr),
      ⟨⟨rfl, rfl, rfl, rfl, rfl⟩, rfl, rfl, rfl, rfl, rfl⟩, rfl, rfl, rfl, rfl, rfl, fun _ => rfl⟩

/-- A bystander at the head is taken, or lets the command in flight complete, or is a poll that reads a busy `STATUS`. -/
theorem step_bystander (he : s.events = e :: es) (hby : e.isBystander = true) :
    (∃ fs, s.Completes fs)
      ∨ (∃ n, e = .poll (n + 1) ∧ s.busy = true ∧ step s = .next (s.replyStatus.setEvents (.poll n :: es)))
      ∨ ∃ t, step s = .next t ∧ Takes e es s t := by
  cases e with
  | access a => exact (step_read he (eq_of_beq hby)).imp (fun h => ⟨_, h⟩) .inr
  | poll n =>
    cases hb : s.busy with
    | false =>
      exact .inr (.inr ⟨s.replyStatus.setEvents es, by simp [step, schedule, he, hb],
        ⟨⟨rfl, rfl, rfl, rfl, rfl⟩, rfl, rfl, rfl, rfl, rfl⟩, rfl, rfl, rfl, rfl, rfl, fun _ => rfl⟩)
    | true =>
      cases n with
      | zero => exact .inl ⟨_, hb, .inr ⟨rfl, .inr (.inl ⟨es, he⟩)⟩⟩
      | succ n => exact .inr (.inl ⟨n, rfl, rfl, by simp [step, schedule, he, hb]⟩)
  | complete =>
    cases hb : s.busy with
    | false =>
      exact .inr (.inr ⟨s.setEvents es, by simp [step, schedule, he, hb],
        ⟨⟨rfl, rfl, rfl, rfl, rfl⟩, rfl, rfl, rfl, rfl, rfl⟩, rfl, rfl, rfl, rfl, rfl, fun _ => rfl⟩)
    | true => exact .inl ⟨es, hb, .inl he⟩
  | reset => exact absurd hby Bool.false_ne_true
  | bindTable size cells =>
    exact .inr (.inr ⟨_, step_bindTable he,
      ⟨⟨rfl, rfl, rfl, rfl, rfl⟩, rfl, rfl, rfl, rfl, rfl⟩, rfl, rfl, rfl, rfl, rfl, fun h => absurd h.symm Bool.false_ne_true⟩)
  | writeTable i v =>
    exact .inr (.inr ⟨(s.setEvents es).writeTable i v, by simp [step, schedule, he],
      ⟨⟨rfl, rfl, rfl, rfl, rfl⟩, rfl, rfl, rfl, rfl, rfl⟩, rfl, rfl, rfl, rfl, rfl, fun h => absurd h.symm Bool.false_ne_true⟩)

/-! ### Commands -/

/-- With `BUSY = 0` a submitted command is accepted. -/
theorem step_commandEvent {i : Instr} (hb : s.busy = false) (he : s.events = commandEvent i :: es) :
    step s = .next (((s.setEvents es).accept (encode i)).reply ⟨.okay, none⟩) :=
  step_registerWrite hb (by decide) he

/-- The events that a completion leaves hold the same submissions, cost no more, and stood among the events before. -/
theorem State.Completes.events_left (h : s.Completes es) :
    es.filter (fun e => !e.isBystander) = s.events.filter (fun e => !e.isBystander)
      ∧ eventsCost es ≤ eventsCost s.events ∧ es ⊆ s.events := by
  obtain ⟨-, he | ⟨rfl, -⟩⟩ := h
  · rw [he, eventsCost_cons]
    exact ⟨rfl, Nat.le_add_left _ _, List.subset_cons_self _ _⟩
  · exact ⟨rfl, Nat.le_refl _, List.Subset.refl _⟩

/-- A completion runs the first of the commands left. -/
theorem State.Completes.runs_head (h : s.Completes es) {is : List Instr} (hleft : s.commandsLeft = is.map commandEvent) :
    ∃ i js, is = i :: js ∧ step s = exec i { s with busy := false, events := es }
      ∧ es.filter (fun e => !e.isBystander) = js.map commandEvent := by
  obtain ⟨hfilter, -, -⟩ := h.events_left
  have ⟨hb, _⟩ := h
  rw [State.commandsLeft, if_pos hb, List.singleton_append, eq_comm, List.map_eq_cons_iff] at hleft
  obtain ⟨i, js, rfl, hi, hjs⟩ := hleft
  have hd : decode s.pend = .ok i := commandEvent_eq_commandWrite.mp hi ▸ decodeOfEncode i
  exact ⟨i, js, rfl, h.step_eq_exec hd, hfilter.trans hjs.symm⟩

/-- The table `m` is at the port, no earlier one can answer, and nothing ahead changes it. -/
structure State.Undisturbed (m : Memory) (s : State) : Prop where
  table : s.table = m
  past : s.past = []
  ahead : ∀ e ∈ s.events, e.changesTable = false

/-- From `s` to `t` no command has completed: the context, the errors and the commands left stay, an undisturbed table is still
so, and the events cost less. -/
structure Passes (s t : State) : Prop where
  context : SameContext s t
  errors : t.errors = s.errors
  commandsLeft : t.commandsLeft = s.commandsLeft
  cost : eventsCost t.events < eventsCost s.events
  undisturbed : ∀ m, s.Undisturbed m → t.Undisturbed m

/-- Events that do not change the table leave it. -/
theorem tableAfter_of_quiet {m : Memory} {es : List Event} (h : ∀ e ∈ es, e.changesTable = false) : tableAfter m es = m := by
  induction es with
  | nil => rfl
  | cons e es ih =>
    obtain ⟨he, hes⟩ := List.forall_mem_cons.mp h
    cases e with
    | bindTable size cells => exact absurd he.symm Bool.false_ne_true
    | writeTable i v => exact absurd he.symm Bool.false_ne_true
    | _ => exact ih hes

/-- Taking a bystander passes the time. -/
theorem Takes.passes (h : Takes e es s t) (he : s.events = e :: es) (hby : e.isBystander = true) : Passes s t where
  context := h.context
  errors := h.errors
  commandsLeft := by simp [State.commandsLeft, h.busy, h.pend, h.events, he, hby]
  cost := by
    rw [h.events, he, eventsCost_cons]
    exact Nat.lt_add_of_pos_left (one_le_eventCost e)
  undisturbed := by
    rintro m ⟨rfl, hpast, hahead⟩
    rw [he] at hahead
    obtain ⟨hquiet, hes⟩ := List.forall_mem_cons.mp hahead
    exact ⟨h.table.trans (tableAfter_of_quiet (List.forall_mem_singleton.mpr hquiet)), (h.past hquiet).trans hpast,
      h.events ▸ hes⟩

/-- The busy reads of a poll pass the time. -/
theorem passes_busy_poll {n : Nat} (he : s.events = .poll (n + 1) :: es) :
    Passes s (s.replyStatus.setEvents (.poll n :: es)) where
  context := ⟨⟨rfl, rfl, rfl, rfl, rfl⟩, rfl, rfl, rfl, rfl, rfl⟩
  errors := rfl
  commandsLeft := by
    simp only [State.commandsLeft, State.setEvents_events, he]
    rfl
  cost := by simp [he, eventCost]
  undisturbed := by
    rintro m ⟨htable, hpast, hahead⟩
    rw [he] at hahead
    exact ⟨htable, hpast, List.forall_mem_cons.mpr ⟨rfl, (List.forall_mem_cons.mp hahead).2⟩⟩

/-- Accepting a command runs nothing yet. -/
theorem passes_accept {i : Instr} (hb : s.busy = false) (he : s.events = commandEvent i :: es) :
    Passes s (((s.setEvents es).accept (encode i)).reply ⟨.okay, none⟩) where
  context := ⟨⟨rfl, rfl, rfl, rfl, rfl⟩, rfl, rfl, rfl, rfl, rfl⟩
  errors := rfl
  commandsLeft := by
    simp only [State.commandsLeft, hb, he]
    rfl
  cost := by
    rw [he, eventsCost_cons]
    exact Nat.lt_add_of_pos_left (one_le_eventCost _)
  undisturbed := by
    rintro m ⟨htable, hpast, hahead⟩
    rw [he] at hahead
    exact ⟨htable, by simp [hpast], (List.forall_mem_cons.mp hahead).2⟩

/-- With only commands and bystanders ahead, a machine that is not idle completes its command or passes. -/
theorem step_of_commandsLeft {is : List Instr} (hleft : s.commandsLeft = is.map commandEvent) :
    (s.events = [] ∧ s.busy = false) ∨ (∃ es, s.Completes es) ∨ ∃ t, step s = .next t ∧ Passes s t := by
  cases he : s.events with
  | nil =>
    cases hb : s.busy with
    | false => exact .inl ⟨rfl, rfl⟩
    | true => exact .inr (.inl ⟨[], hb, .inr ⟨he.symm, .inl he⟩⟩)
  | cons e es =>
    right
    cases hby : e.isBystander with
    | true =>
      obtain h | ⟨n, rfl, -, h⟩ | ⟨t, h, ht⟩ := step_bystander he hby
      · exact .inl h
      · exact .inr ⟨_, h, passes_busy_poll he⟩
      · exact .inr ⟨t, h, ht.passes he hby⟩
    | false =>
      have hmem : e ∈ is.map commandEvent := by simp [← hleft, State.commandsLeft, he, hby]
      obtain ⟨i, -, rfl⟩ := List.mem_map.mp hmem
      cases hb : s.busy with
      | false => exact .inr ⟨_, step_commandEvent hb he, passes_accept hb he⟩
      | true => exact .inl ⟨_, hb, .inr ⟨rfl, .inr (.inr ⟨_, es, he, rfl⟩)⟩⟩

end Sys2Proof.Machine
end

section
/-! SUPPORT. The run of `DIGEST K, x` on the bus (43 R175): the invariant of the machine from the acceptance of `INIT` on, the
bystanders before it, and the statement that follows. -/

namespace Sys2Proof.Machine

/-! ### Runs -/

/-- A run begins with a step. -/
theorem run_succ {s t : State} (h : step s = .next t) (n : Nat) : core.run (n + 1) s = core.run n t := by
  have hcore : core.step s = .next t := h
  simp only [Host.Core.run, hcore]

/-- An idle machine stays as it is. -/
theorem run_idle {s : State} (he : s.events = []) (hb : s.busy = false) (n : Nat) : core.run n s = .next s := by
  induction n with
  | zero => rfl
  | succ n ih =>
    have hstep : step s = .next s := by simp [step, schedule, he, hb]
    rw [run_succ hstep, ih]

/-- With `BUSY = 0` the bystanders at the head are taken, one in each step. -/
theorem run_bystanders {s : State} {pre es : List Event} (hb : s.busy = false) (he : s.events = pre ++ es)
    (hpre : ∀ e ∈ pre, e.isBystander = true) :
    ∃ t, (∀ n, core.run (pre.length + n) s = core.run n t) ∧ t.busy = false ∧ t.events = es ∧ t.errors = s.errors
      ∧ t.table = tableAfter s.table pre := by
  induction pre generalizing s with
  | nil => exact ⟨s, fun n => by rw [List.length_nil, Nat.zero_add], hb, he, rfl, rfl⟩
  | cons e pre ih =>
    obtain ⟨hby, hpre⟩ := List.forall_mem_cons.mp hpre
    obtain ⟨fs, hbusy, -⟩ | ⟨n, -, hbusy, -⟩ | ⟨t, hstep, ht⟩ := step_bystander he hby
    · exact absurd (hb.symm.trans hbusy) Bool.false_ne_true
    · exact absurd (hb.symm.trans hbusy) Bool.false_ne_true
    · obtain ⟨u, hrun, hub, hue, herr, htable⟩ := ih (ht.busy.trans hb) ht.events hpre
      refine ⟨u, fun n => ?_, hub, hue, herr.trans ht.errors, ?_⟩
      · rw [List.length_cons, Nat.succ_add, run_succ hstep, hrun]
      · rw [htable, ht.table]
        rfl

/-! ### The invariant -/

/-- The machine is at stage `st` of `DIGEST K, x`, with the error bits `errors`; and where the table stays, it is `m`, and the
digest to come is the source's. -/
structure OnTrack (k : BitVec 6) (x : List Byte) (errors : Errors) (stays : Prop) (m : Memory) (st : Stage) (s : State) :
    Prop where
  commands : s.commandsLeft = (st.commands k x).map commandEvent
  met : st.Met k x s
  errors : s.errors = errors
  undisturbed : stays → s.Undisturbed m
  digest : stays → st.digest k x m.byteAt s = Reference.digest Config.params m.byteAt k.toNat x

section
variable {k : BitVec 6} {x : List Byte} {errors : Errors} {stays : Prop} {m : Memory} {st : Stage} {s t : State}

/-- A step that completes nothing keeps the machine on track. -/
theorem OnTrack.of_passes (h : OnTrack k x errors stays m st s) (ht : Passes s t) : OnTrack k x errors stays m st t where
  commands := ht.commandsLeft.trans h.commands
  met := ht.context.met h.met
  errors := ht.errors.trans h.errors
  undisturbed hstays := ht.undisturbed m (h.undisturbed hstays)
  digest hstays := (ht.context.stage_digest m.byteAt).trans (h.digest hstays)

variable (hk : 1 ≤ k.toNat ∧ k.toNat ≤ 32) (hsize : stays → 2 ^ k.toNat ≤ m.size)
include hk hsize

/-- A completion goes on to the next stage. -/
theorem OnTrack.of_completes {es : List Event} (h : OnTrack k x errors stays m st s) (hc : s.Completes es) :
    ∃ st' t, step s = .next t ∧ OnTrack k x errors stays m st' t ∧ t.stepsLeft < s.stepsLeft := by
  obtain ⟨i, js, hcmd, hstep, hfilter⟩ := hc.runs_head h.commands
  obtain ⟨-, hcost, hsub⟩ := hc.events_left
  have hsame : SameContext s { s with busy := false, events := es } := ⟨⟨rfl, rfl, rfl, rfl, rfl⟩, rfl, rfl, rfl, rfl, rfl⟩
  obtain ⟨st', t, hexec, rfl, hmet, herr, hdigest⟩ := (hsame.met h.met).advances hk hcmd
  obtain ⟨u, hu, hkeep⟩ := exec_sameTableAndHost i { s with busy := false, events := es }
  obtain rfl := Host.Outcome.next.inj (hexec.symm.trans hu)
  have hevents : t.events = es := hkeep.events
  have hleft : t.commandsLeft = (st'.commands k x).map commandEvent := by
    rw [State.commandsLeft, hkeep.busy, hevents, ← hfilter]
    rfl
  refine ⟨st', t, hstep.trans hexec, ⟨hleft, hmet, herr.trans h.errors, fun hstays => ?_, fun hstays => ?_⟩, ?_⟩
  · obtain ⟨htable, hpast, hahead⟩ := h.undisturbed hstays
    exact ⟨hkeep.table.trans htable, hkeep.past.trans hpast, fun e he => hahead e (hsub (hevents ▸ he))⟩
  · obtain ⟨htable, hpast, -⟩ := h.undisturbed hstays
    rw [hdigest m ⟨htable, hpast, hsize hstays⟩, hsame.stage_digest, h.digest hstays]
  · rw [State.stepsLeft, State.stepsLeft, hleft, h.commands, hcmd, hevents]
    exact Nat.add_lt_add_of_le_of_lt hcost (by simp)

/-- A machine on track is idle, or its step keeps it on track and brings the end nearer. -/
theorem OnTrack.step (h : OnTrack k x errors stays m st s) :
    (s.events = [] ∧ s.busy = false)
      ∨ ∃ st' t, step s = .next t ∧ OnTrack k x errors stays m st' t ∧ t.stepsLeft < s.stepsLeft := by
  obtain hidle | ⟨es, hc⟩ | ⟨t, hstep, ht⟩ := step_of_commandsLeft h.commands
  · exact .inl hidle
  · exact .inr (h.of_completes hk hsize hc)
  · refine .inr ⟨st, t, hstep, h.of_passes ht, ?_⟩
    rw [State.stepsLeft, State.stepsLeft, ht.commandsLeft]
    exact Nat.add_lt_add_right ht.cost _

omit hk hsize in
/-- An idle machine has no command left, so it is at the last stage. -/
theorem OnTrack.done_of_idle (h : OnTrack k x errors stays m st s) (he : s.events = []) (hb : s.busy = false) : st = .done := by
  have hnil : (st.commands k x).map commandEvent = [] := by
    rw [← h.commands, State.commandsLeft, he, hb]
    rfl
  cases st with
  | done => rfl
  | _ => simp [Stage.commands] at hnil

/-- A machine on track ends idle at the last stage. -/
theorem OnTrack.run {n : Nat} (h : OnTrack k x errors stays m st s) (hn : s.stepsLeft ≤ n) :
    ∃ t, core.run n s = .next t ∧ t.events = [] ∧ t.busy = false ∧ OnTrack k x errors stays m .done t := by
  induction n generalizing s st with
  | zero =>
    obtain ⟨he, hb⟩ | ⟨st', t, -, -, hlt⟩ := h.step hk hsize
    · exact ⟨s, rfl, he, hb, h.done_of_idle he hb ▸ h⟩
    · exact absurd (hlt.trans_le hn) (Nat.not_lt_zero _)
  | succ n ih =>
    obtain ⟨he, hb⟩ | ⟨st', t, hstep, ht, hlt⟩ := h.step hk hsize
    · exact ⟨s, run_idle he hb _, he, hb, h.done_of_idle he hb ▸ h⟩
    · rw [run_succ hstep]
      exact ih ht (Nat.le_of_lt_succ (hlt.trans_le hn))

end

/-! ### The program -/

/-- The program writes its `INIT` and then the commands of the first stage after it. -/
theorem digestProgram_eq (k : BitVec 6) (x : List Byte) :
    digestProgram k x = commandEvent (.init k) :: ((Stage.pass1 0 x).commands k x).map commandEvent := by
  simp [digestProgram, absorb1, absorb2, Stage.commands, commandEvent, Function.comp_def]

theorem Stage.init_commands_length (k : BitVec 6) (x : List Byte) :
    (Stage.init.commands k x).length = 2 * x.length + 3 := by
  simp [Stage.commands]
  omega

theorem length_le_eventsCost (es : List Event) : es.length ≤ eventsCost es := by
  induction es with
  | nil => exact Nat.zero_le _
  | cons e es ih =>
    have := one_le_eventCost e
    rw [List.length_cons, eventsCost_cons]
    omega

/-- A table that is not changed after `pre` is the one that `pre` leaves. -/
theorem tableAfter_append_of_quiet {m : Memory} (pre : List Event) {es : List Event}
    (h : ∀ e ∈ es, e.changesTable = false) : tableAfter m (pre ++ es) = tableAfter m pre := by
  rw [tableAfter, List.foldl_append]
  exact tableAfter_of_quiet h

/-- The machine takes the bystanders before the program's `INIT` and accepts it, one event in each step, and is then on
track. -/
theorem run_to_init_accepted {s : State} {k : BitVec 6} {x : List Byte} {pre rest : List Event} (hb : s.busy = false)
    (he : s.events = pre ++ commandEvent (.init k) :: rest) (hpre : ∀ e ∈ pre, e.isBystander = true)
    (hrest : rest.filter (fun e => !e.isBystander) = ((Stage.pass1 0 x).commands k x).map commandEvent) :
    ∃ t, (∀ n, core.run (pre.length + (n + 1)) s = core.run n t) ∧ t.stepsLeft = eventsCost rest + (2 * x.length + 3)
      ∧ ∀ stays : Prop, (stays → ∀ e ∈ rest, e.changesTable = false) →
        OnTrack k x s.errors stays (tableAfter s.table pre) .init t := by
  obtain ⟨u, hrun, hub, hue, herr, htable⟩ := run_bystanders hb he hpre
  have hleft : (((u.setEvents rest).accept (encode (.init k))).reply ⟨.okay, none⟩).commandsLeft
      = (Stage.init.commands k x).map commandEvent := congrArg (commandEvent (.init k) :: ·) hrest
  refine ⟨_, fun n => (hrun (n + 1)).trans (run_succ (step_commandEvent hub hue) n), ?_, fun stays hstays =>
    ⟨hleft, trivial, herr, fun h => ⟨htable, ?_, hstays h⟩, fun _ => rfl⟩⟩
  · rw [State.stepsLeft, hleft, List.length_map, Stage.init_commands_length]
    rfl
  · simp [isInitWord_encode_init]

/-- The steps that the statement grants are enough after the bystanders and the acceptance. -/
theorem exists_steps_after_init (pre rest : List Event) (i : Instr) (c : Nat) :
    ∃ n, eventsCost (pre ++ commandEvent i :: rest) + c = pre.length + (n + 1) ∧ eventsCost rest + c ≤ n := by
  have hlen := length_le_eventsCost pre
  have hone := one_le_eventCost (commandEvent i)
  rw [eventsCost_append, eventsCost_cons]
  exact ⟨eventsCost pre + (eventCost (commandEvent i) + eventsCost rest) + c - pre.length - 1, by omega, by omega⟩

/-- Settles O22: the bystanders before `INIT` are taken, its acceptance puts the machine on track, and the machine on track ends
at the last stage. -/
theorem digestProgramComputesDigest : Obligations.DigestProgramComputesDigest := by
  intro s k x hlo hhi hb pre es he hpre hes
  rw [digestProgram_eq, List.filter_eq_cons_iff] at hes
  obtain ⟨before, rest, rfl, hbefore, -, hrest⟩ := hes
  rw [← List.append_assoc] at he
  have hby : ∀ e ∈ pre ++ before, e.isBystander = true :=
    List.forall_mem_append.mpr ⟨hpre, fun e h => by simpa using hbefore e h⟩
  obtain ⟨u, hrun, hsteps, htrack⟩ := run_to_init_accepted hb he hby hrest
  obtain ⟨n, hn, hle⟩ := exists_steps_after_init (pre ++ before) rest (.init k) (2 * x.length + 3)
  obtain ⟨t, ht, hte, htb, hdone⟩ :=
    (htrack ((∀ e ∈ rest, e.changesTable = false) ∧ 2 ^ k.toNat ≤ (tableAfter s.table (pre ++ before)).size) And.left).run
      ⟨hlo, hhi⟩ And.right (hsteps.trans_le hle)
  obtain ⟨hphase, hlen1⟩ := hdone.met
  refine ⟨t, ?_, hte, htb, hphase, hdone.errors, hlen1, fun hquiet hsize => ?_⟩
  · rw [he, hn, hrun]
    exact ht
  · obtain ⟨hbefore, htail⟩ := List.forall_mem_append.mp hquiet
    have hdigest := hdone.digest
    rw [tableAfter_append_of_quiet pre hbefore] at hdigest
    exact hdigest ⟨(List.forall_mem_cons.mp htail).2, hsize⟩

end Sys2Proof.Machine
end

section
/-! SUPPORT. What the commands and the steps do to the error bits (10 R33, 60 R191 to R194), and that every state has a next
state; and the statements that follow. -/

namespace Sys2Proof.Machine

/-! ### The error a command meets, as one equation per command (60 R191, R192) -/

section
variable (s : State)

/-- The operand is out of range exactly when `execInit`'s own check fails (40 R111). -/
theorem errorOf_init (k : BitVec 6) : errorOf (.init k) s = if mapBitsLegal k then none else some .cfg := by
  have hout : (k.toNat < 1 ∨ 32 < k.toNat) ↔ ¬ mapBitsLegal k = true := by
    rw [mapBitsLegal_iff]
    omega
  simp only [errorOf, phaseLegal, if_true, hout, ite_not]

theorem errorOf_fast (v : Byte) : errorOf (.fast v) s = if s.phase = .pass1 then none else some .seq := by
  simp [errorOf, phaseLegal]

theorem errorOf_pass2 : errorOf .pass2 s = if s.phase = .pass1 then none else some .seq := by
  simp [errorOf, phaseLegal]

theorem errorOf_full (v : Byte) : errorOf (.full v) s = if s.phase = .pass2 then none else some .seq := by
  simp [errorOf, phaseLegal]

theorem errorOf_final :
    errorOf .final s = if s.phase = .pass2 then if s.cnt = s.len1 then none else some .len else some .seq := by
  simp [errorOf, phaseLegal]

end

/-! ### What a command does to the error bits (60 R193) -/

/-- How a command that meets this error, or none, may take `s` to `t`: no error leaves the error bits, `CFG` also leaves the
context for `IDLE`, and `SEQ` and `LEN` set their bit only. No command that decodes meets `ILL`. -/
def AnswersError (s t : State) : Option ErrorCode → Prop
  | none => t.errors = s.errors
  | some .ill => False
  | some .seq => t = s.raise .seq
  | some .cfg => t = (s.setPhase .idle).raise .cfg
  | some .len => t = s.raise .len

@[simp] theorem finalizeDown_errors (p : Params) (n : Nat) (h : n ≤ 32) (s : State) :
    (finalizeDown p n h s).errors = s.errors := by
  obtain ⟨-, -, -, -, -, -, herr, -⟩ := finalizeDown_same p n h s
  exact herr

/-- Every command answers a next state, as the error that it meets says. -/
theorem exec_answersError (i : Instr) (s : State) : ∃ t, exec i s = .next t ∧ AnswersError s t (errorOf i s) := by
  cases i with
  | nop => exact ⟨s, rfl, rfl⟩
  | init k =>
    rw [exec_init, errorOf_init]
    split <;> exact ⟨_, rfl, rfl⟩
  | fast v =>
    rw [exec_fast, errorOf_fast]
    split <;> exact ⟨_, rfl, rfl⟩
  | pass2 =>
    rw [exec_pass2, errorOf_pass2]
    split <;> exact ⟨_, rfl, rfl⟩
  | full v =>
    rw [exec_full, errorOf_full]
    split <;> exact ⟨_, rfl, rfl⟩
  | final =>
    rw [exec_final, errorOf_final]
    split
    · split
      · exact ⟨_, rfl, finalizeDown_errors _ _ _ s⟩
      · exact ⟨_, rfl, rfl⟩
    · exact ⟨_, rfl, rfl⟩

/-- Settles O24: the completion step raises `ILL`, or runs the command, which answers the error that it meets. -/
theorem errorsPreciseAndPrioritised : Obligations.ErrorsPreciseAndPrioritised := by
  intro s es hs u
  cases hd : decode s.pend with
  | error r => exact hs.step_eq_raise_ill hd
  | ok i =>
    obtain ⟨t, hexec, hanswers⟩ := exec_answersError i u
    have hsame : errorOf i u = errorOf i s := rfl
    have hstep : step s = .next t := (hs.step_eq_exec hd).trans hexec
    rw [hsame] at hanswers
    dsimp only
    cases he : errorOf i s with
    | none =>
      rw [he] at hanswers
      exact ⟨t, hstep, hanswers⟩
    | some c =>
      rw [he] at hanswers
      cases c with
      | ill => exact hanswers
      | seq => exact hstep.trans (congrArg _ hanswers)
      | cfg => exact hstep.trans (congrArg _ hanswers)
      | len => exact hstep.trans (congrArg _ hanswers)

/-! ### Completing a command, and that every step goes on (60 R190, R193) -/

/-- Of the error bits, a command changes none or sets one. -/
theorem AnswersError.errors {s t : State} {c : Option ErrorCode} (h : AnswersError s t c) :
    t.errors = s.errors ∨ ∃ e, t.errors = s.errors.set e := by
  match c with
  | none => exact .inl h
  | some .ill => exact h.elim
  | some .seq => exact .inr ⟨.seq, congrArg State.errors h⟩
  | some .cfg => exact .inr ⟨.cfg, congrArg State.errors h⟩
  | some .len => exact .inr ⟨.len, congrArg State.errors h⟩

/-- Completing the command in flight answers a next state, and of the error bits changes none or sets one. -/
theorem completeCommand_next (s : State) :
    ∃ t, completeCommand s = .next t ∧ (t.errors = s.errors ∨ ∃ e, t.errors = s.errors.set e) := by
  obtain ⟨i, -, h⟩ | ⟨r, -, h⟩ := completeCommand_cases s
  · obtain ⟨t, hexec, hanswers⟩ := exec_answersError i s.clearBusy
    exact ⟨t, h.trans hexec, hanswers.errors⟩
  · exact ⟨_, h, .inr ⟨.ill, rfl⟩⟩

/-- Settles O38: the boundary has moved, or the command in flight completes. -/
theorem everyStepGoesOn : Obligations.EveryStepGoesOn := by
  intro s
  unfold step
  cases schedule s with
  | moved t => exact ⟨t, rfl⟩
  | complete u =>
    obtain ⟨t, h, -⟩ := completeCommand_next u
    exact ⟨t, h⟩

/-! ### What a step does to the error bits (10 R33, 60 R194) -/

/-- Setting a bit sets that bit and leaves the others. -/
@[simp] theorem Errors.get_set (e : Errors) (c d : ErrorCode) : (e.set d).get c = (decide (c = d) || e.get c) := by
  cases d <;> cases c <;> rfl

/-- A `STATUS` write clears the bits that it holds a 1 for. -/
@[simp] theorem Errors.get_clear (e : Errors) (w : Reg) (c : ErrorCode) :
    (e.clear w).get c = (e.get c && !w.getLsbD c.position) := by
  cases c <;> rfl

/-- Serving an access leaves the error bits, or is a well-formed write of `STATUS` and clears some. -/
theorem serve_errors (a : Access) (s : State) :
    (serve a s).errors = s.errors
      ∨ ∃ v, a.op = .write v ∧ a.wellFormed = true ∧ registerAt (windowOffset a.addr) = .status
          ∧ (serve a s).errors = s.errors.clear v := by
  obtain ⟨r, h⟩ | ⟨v, r, hop, hwf, hreg, h⟩ | ⟨v, r, -, -, -, h⟩ | ⟨v, r, -, h⟩ := serve_cases a s <;> rw [h]
  · exact .inl rfl
  · exact .inr ⟨v, hop, hwf, hreg, rfl⟩
  · exact .inl rfl
  · exact .inl rfl

/-- A write is served with `BUSY = 0` only (70 R214). -/
theorem busy_eq_false_of_write_served {s : State} {a : Access} {v : Reg} (hop : a.op = .write v)
    (h : (s.busy && heldWhileBusy a) = false) : s.busy = false := by
  have hheld : heldWhileBusy a = true := by rw [heldWhileBusy, hop]
  rwa [hheld, Bool.and_true] at h

/-- A step leaves the error bits, or sets one, or takes the reset event, or serves a write of `STATUS` that clears some. -/
theorem step_errors_cases {s t : State} (h : step s = .next t) :
    t.errors = s.errors
      ∨ (∃ e, t.errors = s.errors.set e)
      ∨ (∃ es, s.events = .reset :: es)
      ∨ ∃ a v es, s.events = .access a :: es ∧ s.busy = false ∧ a.op = .write v ∧ a.wellFormed = true
          ∧ registerAt (windowOffset a.addr) = .status ∧ t.errors = s.errors.clear v := by
  obtain ⟨es, -, hc, -⟩ | ⟨a, es, he, hheld, rfl⟩ | ⟨n, es, es', -, rfl⟩ | ⟨es, -, rfl, -⟩ | ⟨es, he, -⟩
    | ⟨size, cells, es, -, rfl⟩ | ⟨i, v, es, -, rfl⟩ := step_cases h
  · obtain ⟨u, hu, herr⟩ := completeCommand_next (s.setEvents es)
    obtain rfl := Host.Outcome.next.inj (hu.symm.trans hc)
    exact herr.imp id .inl
  · obtain herr | ⟨v, hop, hwf, hreg, herr⟩ := serve_errors a (s.setEvents es)
    · exact .inl herr
    · exact .inr (.inr (.inr ⟨a, v, es, he, busy_eq_false_of_write_served hop hheld, hop, hwf, hreg, herr⟩))
  · exact .inl rfl
  · exact .inl rfl
  · exact .inr (.inr (.inl ⟨es, he⟩))
  · exact .inl rfl
  · exact .inl rfl

/-- Settles O26: of what a step can do to the error bits, only a reset and a `STATUS` write clear one, and the write holds a 1
for it. -/
theorem errorBitsSticky : Obligations.ErrorBitsSticky := by
  intro s t c h hset hclear
  obtain herr | ⟨d, herr⟩ | ⟨es, he⟩ | ⟨a, v, es, he, hb, hop, hwf, hreg, herr⟩ := step_errors_cases h
  · simp [herr, hset] at hclear
  · simp [herr, hset] at hclear
  · exact ⟨es, .inl he⟩
  · have hbit : v.getLsbD c.position = true := by simpa [herr, hset] using hclear
    exact ⟨es, .inr ⟨a, v, he, hb, hop, hwf, hreg, hbit⟩⟩

end Sys2Proof.Machine
end

section
/-! SUPPORT. `DIGEST` before `FINAL` (70 R216), the reset event (70 R210), the busy hold and the completion of every accepted
command (70 R214, R220); and the statements that follow. -/

namespace Sys2Proof.Machine

/-! ### `DIGEST` reads 0 until `FINAL` (70 R216) -/

/-- The invariant speaks of `PHASE` and `DIGEST` only. -/
theorem SameContext.digestClear {s t : State} (h : SameContext s t) (hs : s.DigestClear) : t.DigestClear := by
  unfold State.DigestClear
  rwa [h.phase, h.digest]

/-- Every command keeps the invariant: `INIT` clears `DIGEST`, `PASS2` comes from `PASS1`, and `FINAL`, which writes `DIGEST`,
leaves `PASS2` for `DONE`. -/
theorem exec_digestClear {i : Instr} {s t : State} (hs : s.DigestClear) (h : exec i s = .next t) : t.DigestClear := by
  obtain ⟨-, he⟩ | ⟨k, -, -, he⟩ | ⟨k, -, -, he⟩ | ⟨v, -, -, he⟩ | ⟨-, hp, he⟩ | ⟨v, -, -, he⟩ | ⟨-, -, -, he⟩
    | ⟨e, -, he⟩ := exec_cases i s <;> obtain rfl := Host.Outcome.next.inj (he.symm.trans h)
  · exact hs
  · exact fun _ => rfl
  · simp [State.DigestClear]
  · exact hs
  · exact fun _ => hs (.inl hp)
  · exact hs
  · simp [State.DigestClear]
  · exact hs

/-- Settles O32: only a reset or a completing command changes `PHASE` or `DIGEST`, and both keep the invariant. -/
theorem digestClearKept : Obligations.DigestClearKept := by
  intro s t hs h
  obtain hsame | ⟨es, -, rfl⟩ | ⟨i, es, -, -, he⟩ := step_context_cases h
  · exact hsame.digestClear hs
  · exact fun _ => rfl
  · exact exec_digestClear (s := (s.setEvents es).clearBusy) hs he

/-! ### Reset (70 R210, R211) -/

/-- A reset takes effect at once, whether or not a command is in flight. -/
theorem step_reset {s : State} {es : List Event} (he : s.events = .reset :: es) :
    step s = .next (s.setEvents es).hardReset := by
  simp [step, schedule, he]

/-- Settles O41: the step is `State.hardReset`, field by field. -/
theorem resetEventResets : Obligations.ResetEventResets := by
  intro s es he
  exact ⟨_, step_reset he, ⟨rfl, rfl, rfl, rfl, rfl⟩, rfl, rfl, rfl, rfl, rfl, rfl, rfl, rfl, rfl, rfl, rfl, rfl, rfl⟩

/-! ### The busy hold (70 R214) -/

section
variable {s : State} {es : List Event}

/-- The completion step clears `BUSY`, leaves the events that it is to leave, and answers nobody. -/
theorem State.Completes.exists_step (h : s.Completes es) :
    ∃ t, step s = .next t ∧ t.busy = false ∧ t.events = es ∧ t.replies = s.replies := by
  cases hd : decode s.pend with
  | ok i =>
    obtain ⟨t, ht, hsame⟩ := exec_sameTableAndHost i { s with busy := false, events := es }
    exact ⟨t, (h.step_eq_exec hd).trans ht, hsame.busy, hsame.events, hsame.replies⟩
  | error r => exact ⟨_, h.step_eq_raise_ill hd, rfl, rfl, rfl⟩

/-- Of all accesses, only the well-formed reads of `ID` and `STATUS` are not held. -/
theorem heldWhileBusy_eq_false_iff (a : Access) :
    heldWhileBusy a = false ↔ a.op = .read ∧ a.wellFormed = true
      ∧ (registerAt (windowOffset a.addr) = .id ∨ registerAt (windowOffset a.addr) = .status) := by
  have hreadable (r : Register) : readableWhileBusy r = true ↔ r = .id ∨ r = .status := by
    cases r <;> simp [readableWhileBusy]
  cases hop : a.op with
  | read => simp [heldWhileBusy, hop, hreadable]
  | write v => simp [heldWhileBusy, hop]

/-- A read that is not held is answered with the register's value, and only the reply is added. -/
theorem step_unheld_read {a : Access} (he : s.events = .access a :: es) (hheld : heldWhileBusy a = false) :
    step s = .next { s with
      events := es, replies := ⟨.okay, some (s.regRead (registerAt (windowOffset a.addr)))⟩ :: s.replies } := by
  obtain ⟨hop, hwf, -⟩ := (heldWhileBusy_eq_false_iff a).mp hheld
  rw [step_served he (by rw [hheld, Bool.and_false]), serve, hop, if_pos hwf, State.regRead_setEvents]
  rfl

/-- A poll with a busy read left makes it while a command is in flight. -/
theorem step_poll_of_busy {n : Nat} (hb : s.busy = true) (he : s.events = .poll (n + 1) :: es) :
    step s = .next { s with events := .poll n :: es, replies := ⟨.okay, some (statusWord s)⟩ :: s.replies } := by
  simp [step, schedule, he, hb, State.replyStatus, State.reply, State.setEvents]

/-- With `BUSY = 0` a poll is answered and over. -/
theorem step_poll_of_not_busy {n : Nat} (hb : s.busy = false) (he : s.events = .poll n :: es) :
    step s = .next { s with events := es, replies := ⟨.okay, some (statusWord s)⟩ :: s.replies } := by
  simp [step, schedule, he, hb, State.replyStatus, State.reply, State.setEvents]

/-- While a command is in flight `STATUS` reads as before the command, with bit 0 set. -/
theorem statusWord_of_busy (hb : s.busy = true) : statusWord s = statusWord { s with busy := false } ||| 1#32 := by
  have hor (x : BitVec 31) : x ++ BitVec.ofBool true = (x ++ BitVec.ofBool false) ||| (0#31 ++ 1#1) := by
    rw [BitVec.or_append, BitVec.or_zero]
    rfl
  rw [statusWord, hb]
  exact hor _

/-- Bit 0 of `STATUS` is `BUSY` (10 R41). -/
theorem statusWord_getLsbD_zero (s : State) : (statusWord s).getLsbD 0 = s.busy := by
  obtain ⟨-, -, hstatus⟩ := statusRegister
  obtain ⟨⟨hbusy, -⟩, -⟩ := hstatus s 0
  exact hbusy

end

/-- Settles O37: an access that is not held is a read, served at once; a held access and a poll without a busy read left bring
the completion about; and the other polls read `STATUS`. -/
theorem busyHold : Obligations.BusyHold := by
  refine ⟨fun s a es hb he => ⟨fun hop hwf hid => ?_, fun hop hwf hstatus => ?_, fun hother => ?_⟩,
    fun s n es he => ⟨fun m hb hn => ?_, fun hb hn => ?_, fun hb => ?_⟩⟩
  · rw [step_unheld_read he ((heldWhileBusy_eq_false_iff a).mpr ⟨hop, hwf, .inl hid⟩), hid]
    rfl
  · rw [step_unheld_read he ((heldWhileBusy_eq_false_iff a).mpr ⟨hop, hwf, .inr hstatus⟩), hstatus]
    exact ⟨_, rfl, statusWord_of_busy hb⟩
  · have hheld : heldWhileBusy a = true := by rwa [← heldWhileBusy_eq_false_iff, Bool.not_eq_false] at hother
    exact State.Completes.exists_step ⟨hb, .inr ⟨rfl, .inr (.inr ⟨a, es, he, hheld⟩)⟩⟩
  · subst hn
    exact ⟨_, step_poll_of_busy hb he, statusWord_of_busy hb⟩
  · subst hn
    exact State.Completes.exists_step ⟨hb, .inr ⟨rfl, .inr (.inl ⟨es, he⟩)⟩⟩
  · exact ⟨_, step_poll_of_not_busy hb he, rfl, (statusWord_getLsbD_zero s).trans hb⟩

/-! ### Every accepted command completes (70 R214, R220) -/

/-- From `s` to `t` the command in flight has waited: it is in flight still, no reset has come up, and the events cost less. -/
structure Waits (s t : State) : Prop where
  busy : t.busy = true
  pend : t.pend = s.pend
  noReset : .reset ∉ t.events
  cost : eventsCost t.events < eventsCost s.events

section
variable {s : State}

/-- With no reset ahead, a command in flight completes in the next step or waits. -/
theorem completes_or_waits (hb : s.busy = true) (hr : .reset ∉ s.events) :
    (∃ es, s.Completes es) ∨ ∃ t, step s = .next t ∧ Waits s t := by
  cases he : s.events with
  | nil => exact .inl ⟨[], hb, .inr ⟨he.symm, .inl he⟩⟩
  | cons e es =>
    rw [he, List.mem_cons, not_or] at hr
    obtain ⟨hre, hres⟩ := hr
    cases hby : e.isBystander with
    | true =>
      obtain h | ⟨n, rfl, -, h⟩ | ⟨t, h, ht⟩ := step_bystander he hby
      · exact .inl h
      · exact .inr ⟨_, h, hb, rfl, by simpa using hres, (passes_busy_poll he).cost⟩
      · exact .inr ⟨t, h, ht.busy.trans hb, ht.pend, ht.events.symm ▸ hres, (ht.passes he hby).cost⟩
    | false =>
      cases e with
      | access a =>
        have hop : a.op ≠ .read := ne_of_beq_false hby
        have hheld : heldWhileBusy a = true :=
          Bool.of_not_eq_false fun h => hop ((heldWhileBusy_eq_false_iff a).mp h).1
        exact .inl ⟨_, hb, .inr ⟨rfl, .inr (.inr ⟨a, es, he, hheld⟩)⟩⟩
      | reset => exact absurd rfl hre
      | _ => exact absurd hby.symm Bool.false_ne_true

/-- With no reset ahead, the completion of the command in flight comes within the cost of the events. -/
theorem run_to_completion (hb : s.busy = true) (hr : .reset ∉ s.events) :
    ∃ k u es, k ≤ eventsCost s.events ∧ core.run k s = .next u ∧ u.pend = s.pend ∧ u.Completes es := by
  induction hn : eventsCost s.events using Nat.strong_induction_on generalizing s with
  | _ n ih =>
    subst hn
    obtain ⟨es, hc⟩ | ⟨t, hstep, ht⟩ := completes_or_waits hb hr
    · exact ⟨0, s, es, Nat.zero_le _, rfl, rfl, hc⟩
    · obtain ⟨k, u, es, hk, hrun, hpend, hc⟩ := ih _ ht.cost ht.busy ht.noReset rfl
      exact ⟨k + 1, u, es, hk.trans_lt ht.cost, (run_succ hstep k).trans hrun, hpend.trans ht.pend, hc⟩

end

/-- Settles O39: the command waits until its completion, which is `completeCommand` and clears `BUSY`. -/
theorem acceptedCommandsComplete : Obligations.AcceptedCommandsComplete := by
  intro s hb hr
  obtain ⟨k, u, es, hk, hrun, hpend, hc⟩ := run_to_completion hb hr
  obtain ⟨t, hstep, hbusy, -⟩ := hc.exists_step
  exact ⟨k, u, es, t, hk, hrun, hpend, hc, hc.step_eq.symm.trans hstep, hstep, hbusy⟩

end Sys2Proof.Machine
end
